-- ==== Sys2Proof/Word.lean ====
section
/-! DEFINITION. The block's word types: 8-bit DMEM bytes (R60), 32-bit CSRs and command words (R8, R80) and the
64-bit result register (R30). -/

namespace Sys2Proof

/-- A DMEM byte. -/
abbrev Byte := BitVec 8

/-- A CSR or a command word. -/
abbrev Word := BitVec 32

/-- The result register RES. -/
abbrev DWord := BitVec 64

end Sys2Proof
end

