-- ==== Sys2Proof/Syntax.lean ====
section
/-! DEFINITION. The command set of R83, one constructor per row of spec/opcode_table.json. -/

namespace Sys2Proof

/-- A command with its immediate. A bit count is a `Nat` (`WellFormed.lean` bounds it by its field, R81); the
byte of format I8 is a byte. -/
inductive Instr where
  /-- `NOP` (R240). -/
  | nop
  /-- `SRST` (R241): soft reset. -/
  | srst
  /-- `BC.RDU n` (R102): read `n` bits unsigned and advance. -/
  | bcRdu (n : Nat)
  /-- `BC.RDS n` (R104): read `n` bits signed and advance. -/
  | bcRds (n : Nat)
  /-- `BC.PEEK n` (R103): read `n` bits unsigned. -/
  | bcPeek (n : Nat)
  /-- `BC.ADV imm16` (R105): advance the cursor. -/
  | bcAdv (m : Nat)
  /-- `BC.REM` (R106): remaining bits. -/
  | bcRem
  /-- `BW.WR n` (R109): append `n` bits. -/
  | bwWr (n : Nat)
  /-- `BW.ALIGN` (R110): pad to a byte boundary. -/
  | bwAlign
  /-- `CRC.INIT` (R121). -/
  | crcInit
  /-- `CRC.BYTE imm8` (R122). -/
  | crcByte (b : Byte)
  /-- `CRC.MEM` (R123). -/
  | crcMem
  /-- `CRC.CHK` (R124). -/
  | crcChk
  /-- `RTCM.ENC` (R128). -/
  | rtcmEnc
  /-- `GF.MUL` (R152). -/
  | gfMul
  /-- `GF.INV` (R153). -/
  | gfInv
  /-- `HAS.PAGE` (R146). -/
  | hasPage
  /-- `HAS.CLR` (R155). -/
  | hasClr
  /-- `DMX.BYTE imm8` (R193). -/
  | dmxByte (b : Byte)
  /-- `DMX.FEED` (R200). -/
  | dmxFeed
  /-- `DMX.EOS` (R198). -/
  | dmxEos
  /-- `REC.POP` (R192). -/
  | recPop
  /-- `SFA.PUSH` (R221). -/
  | sfaPush
  /-- `SFA.CLR` (R228). -/
  | sfaClr
deriving DecidableEq, Repr

end Sys2Proof
end

