-- ==== Sys2Proof/WellFormed.lean ====
section
/-! DEFINITION. Which terms of `Instr` have an encoding: the bit counts must fit their fields (R81, R82). Whether
a bit count is legal for its command is the command's own check (R102 to R105, R109). -/

namespace Sys2Proof

/-- The immediate fits its field: 7 bits in format W, 16 bits in format I16 (R81). -/
def Instr.wf : Instr → Bool
  | .nop => true
  | .srst => true
  | .bcRdu n => decide (n < 128)
  | .bcRds n => decide (n < 128)
  | .bcPeek n => decide (n < 128)
  | .bcAdv m => decide (m < 65536)
  | .bcRem => true
  | .bwWr n => decide (n < 128)
  | .bwAlign => true
  | .crcInit => true
  | .crcByte _ => true
  | .crcMem => true
  | .crcChk => true
  | .rtcmEnc => true
  | .gfMul => true
  | .gfInv => true
  | .hasPage => true
  | .hasClr => true
  | .dmxByte _ => true
  | .dmxFeed => true
  | .dmxEos => true
  | .recPop => true
  | .sfaPush => true
  | .sfaClr => true

end Sys2Proof
end

