-- ==== Sys2Proof/Decode.lean ====
section
/-! DEFINITION. The decoding procedure of R86, total on every 32-bit word, and after it the encoder (R81, R83, R88). -/

namespace Sys2Proof

/-- Why a command word stands for no command (R85). -/
inductive DecodeError where
  /-- `w[31:24]` is not in the table of R83. -/
  | illegalOpcode
  /-- A reserved bit of the format is 1. -/
  | reservedField
deriving DecidableEq, Repr

/-- The four command formats (R81). -/
inductive Format where
  /-- No immediate. -/
  | n
  /-- A byte in `w[7:0]`. -/
  | i8
  /-- A bit count in `w[6:0]`. -/
  | w
  /-- A bit count in `w[15:0]`. -/
  | i16
deriving DecidableEq, Repr

/-- The reserved field of a format, `w[23:k]` above its immediate (R81), as a number. -/
def Format.reserved (f : Format) (w : Word) : Nat :=
  match f with
  | .n => (w.extractLsb' 0 24).toNat
  | .i8 => (w.extractLsb' 8 16).toNat
  | .w => (w.extractLsb' 7 17).toNat
  | .i16 => (w.extractLsb' 16 8).toNat

/-- `w[31:24]` (R80). -/
def opOf (w : Word) : Nat := (w.extractLsb' 24 8).toNat

/-- The immediate byte of format I8 (R81). -/
def imm8Of (w : Word) : Byte := w.extractLsb' 0 8

/-- The bit count of format W (R81). -/
def widthOf (w : Word) : Nat := (w.extractLsb' 0 7).toNat

/-- The bit count of format I16 (R81). -/
def imm16Of (w : Word) : Nat := (w.extractLsb' 0 16).toNat

/-- The row of R83 for `op`, with the command that the immediate fields of `w` give. -/
def rowOf (op : Nat) (w : Word) : Option (Format × Instr) :=
  match op with
  | 0x00 => some (.n, .nop)
  | 0x01 => some (.n, .srst)
  | 0x10 => some (.w, .bcRdu (widthOf w))
  | 0x11 => some (.w, .bcRds (widthOf w))
  | 0x12 => some (.w, .bcPeek (widthOf w))
  | 0x13 => some (.i16, .bcAdv (imm16Of w))
  | 0x14 => some (.n, .bcRem)
  | 0x18 => some (.w, .bwWr (widthOf w))
  | 0x19 => some (.n, .bwAlign)
  | 0x20 => some (.n, .crcInit)
  | 0x21 => some (.i8, .crcByte (imm8Of w))
  | 0x22 => some (.n, .crcMem)
  | 0x23 => some (.n, .crcChk)
  | 0x28 => some (.n, .rtcmEnc)
  | 0x30 => some (.n, .gfMul)
  | 0x31 => some (.n, .gfInv)
  | 0x32 => some (.n, .hasPage)
  | 0x33 => some (.n, .hasClr)
  | 0x38 => some (.i8, .dmxByte (imm8Of w))
  | 0x39 => some (.n, .dmxFeed)
  | 0x3A => some (.n, .dmxEos)
  | 0x3B => some (.n, .recPop)
  | 0x40 => some (.n, .sfaPush)
  | 0x41 => some (.n, .sfaClr)
  | _ => none

/-- The decoding procedure (R86): the opcode first, then the reserved bits. -/
def decode (w : Word) : Except DecodeError Instr :=
  match rowOf (opOf w) w with
  | none => .error .illegalOpcode
  | some (f, i) => if f.reserved w = 0 then .ok i else .error .reservedField

/-- A word of format N (R81, R88). -/
def wordN (op : Byte) : Word := op ++ (0 : BitVec 24)

/-- A word of format I8 (R81, R88). -/
def wordI8 (op b : Byte) : Word := op ++ (0 : BitVec 16) ++ b

/-- A word of format W (R81, R88). -/
def wordW (op : Byte) (n : Nat) : Word := op ++ (0 : BitVec 17) ++ BitVec.ofNat 7 n

/-- A word of format I16 (R81, R88). -/
def wordI16 (op : Byte) (m : Nat) : Word := op ++ (0 : BitVec 8) ++ BitVec.ofNat 16 m

/-- The command word of a command (R83, R88). -/
def encode : Instr → Word
  | .nop => wordN 0x00
  | .srst => wordN 0x01
  | .bcRdu n => wordW 0x10 n
  | .bcRds n => wordW 0x11 n
  | .bcPeek n => wordW 0x12 n
  | .bcAdv m => wordI16 0x13 m
  | .bcRem => wordN 0x14
  | .bwWr n => wordW 0x18 n
  | .bwAlign => wordN 0x19
  | .crcInit => wordN 0x20
  | .crcByte b => wordI8 0x21 b
  | .crcMem => wordN 0x22
  | .crcChk => wordN 0x23
  | .rtcmEnc => wordN 0x28
  | .gfMul => wordN 0x30
  | .gfInv => wordN 0x31
  | .hasPage => wordN 0x32
  | .hasClr => wordN 0x33
  | .dmxByte b => wordI8 0x38 b
  | .dmxFeed => wordN 0x39
  | .dmxEos => wordN 0x3A
  | .recPop => wordN 0x3B
  | .sfaPush => wordN 0x40
  | .sfaClr => wordN 0x41

/-- The host's reading of a row of spec/opcode_table.json: every row is one 32-bit word (R87). -/
def decodeTableWord (nbits w : Nat) : Option Instr :=
  match decode (BitVec.ofNat 32 (w % 2 ^ nbits)) with
  | .ok i => some i
  | .error _ => none

end Sys2Proof
end

