-- ==== Sys2Proof/Config.lean ====
section
/-! DEFINITION. The implementation parameters of R7: the fixed sizes and polynomials, and the three OPEN parameters
as opaque constants (log entries 4, 5 and 6). -/

namespace Sys2Proof.Config

/-- `DMEM_SIZE` (R7): bytes of data memory. -/
abbrev dmemSize : Nat := 8192

/-- `DMX_MAXLEN` (R7): the longest whole frame the demultiplexer accepts. -/
abbrev dmxMaxLen : Nat := 2048

/-- `RECQ_DEPTH` (R7): entries of the record queue. -/
abbrev recqDepth : Nat := 8

/-- `BSS_SLOTS` (R7): entries of the best-satellite table. -/
abbrev bssSlots : Nat := 32

/-- `SF_BYTES` (R7): bytes of the subframe buffer. -/
abbrev sfBytes : Nat := 1060

/-- Bits of one L6 data part (R220). -/
abbrev dataPartBits : Nat := 1695

/-- `HAS_PAGE_BYTES` (R7): bytes of one HAS encoded page payload. -/
abbrev hasPageBytes : Nat := 53

/-- `HAS_MAX_MS` (R7): the largest HAS message size in pages. -/
abbrev hasMaxMs : Nat := 32

/-- `HAS_K` (R7): rows of the HAS generator matrix. -/
abbrev hasK : Nat := 32

/-- `HAS_N` (R7): columns of the HAS generator matrix. -/
abbrev hasN : Nat := 255

/-- `CRC24Q_POLY` (R7). -/
abbrev crc24qPoly : Nat := 0x1864CFB

/-- `GF_POLY` (R7). -/
abbrev gfPoly : Nat := 0x11D

/-- `ALST_L6_EXTRACT` (R7): the Allystar L6 data bytes that make the record's body. -/
abbrev alstL6Bytes : Nat := 250

/-- `NOVATEL_CRC32_INIT` (R7). -/
abbrev novatelCrc32Init : Word := 0

/-- `SBF_CRC16_INIT` (R7). -/
abbrev sbfCrc16Init : BitVec 16 := 0

/-- The contents of the identification register (R21). -/
abbrev idValue : Word := 0x514C3607

/-- `CRC24Q_INIT` (R7, OPEN): no value of it can be proved. DESIGN CHOICE of its form: log entry 4; safe. -/
opaque crc24qInit : BitVec 24

/-- Columns 32 to 254 of `HAS_G` (R7, R144, OPEN), one list per row. DESIGN CHOICE of its form: log entry 6; safe. -/
opaque hasParity : List (List Byte)

/-- `DMEM_INIT` (R7, R281, OPEN): the bytes DMEM holds after power-on, from address 0. DESIGN CHOICE of its form:
log entry 5; safe. -/
opaque dmemInit : List Byte

/-- The OPEN parameters that the commands read, as one instance of the block has them. -/
structure Params where
  /-- `CRC24Q_INIT` (R7). -/
  crc24qInit : BitVec 24
  /-- Row `i`, entry `j - 32` is `HAS_G[i][j]` for `j ≥ 32` (R144). -/
  hasParity : List (List Byte)
deriving DecidableEq, Repr

/-- The parameters of the instance that `State.reset` describes. -/
def params : Params := ⟨crc24qInit, hasParity⟩

end Sys2Proof.Config
end

