-- ==== Sys2Proof/Machine/State.lean ====
section
/-! DEFINITION. Everything the spec gives the block (10_state.md), as plain data, with the reset state of R280 and
R281. The fields that are the model's own say so. -/

namespace Sys2Proof.Machine

open Sys2Proof

/-- A command error's cause, ERRCAUSE (R24, R252). Codes 8 to 15 are never written, so they are no constructor. -/
inductive Cause where
  | none
  | illegalOpcode
  | reservedField
  | badOperand
  | short
  | wfull
  | qempty
  | addr
deriving DecidableEq, Repr

/-- A framing kind, DMX_CFG.KIND (R171). `none` is also the KIND 0 of SFA and HAS records (R177). -/
inductive Kind where
  | none
  | rtcm3
  | allystar
  | novatel
  | sbf
  | ubx
  | rawL6
  | rawL1s
  | rawE6b
  | rawB2b
deriving DecidableEq, Repr

/-- The stage that made a record (R177). -/
inductive Stage where
  | dmx
  | sfa
  | has
deriving DecidableEq, Repr

/-- A record's CODE (R177, R254). -/
inductive RecCode where
  | frame
  | checksumFail
  | lengthFail
  | sfComplete
  | sfFlush
  | sfAbort
  | sfOrphan
  | sfBadPre
  | hasDone
  | rsFail
  | msMismatch
  | badPid
  | badMid
  | badMs
deriving DecidableEq, Repr

/-- A record (R177). `prn` is a signed number in two's complement. -/
structure Record where
  stage : Stage
  kind : Kind
  code : RecCode
  errmap : BitVec 7
  prn : Word
  week : BitVec 16
  tow : Word
  aux : Word
  msgid : BitVec 16
  ext : Word
  body : List Byte
deriving DecidableEq, Repr

/-- DMX_CFG (R38), whose reserved bits always read 0. -/
structure DmxCfg where
  kind : Kind
  bssEn : Bool
  pinEn : Bool
  pinPrn : BitVec 16
deriving DecidableEq, Repr

/-- The REC_* registers (R43), at the widths whose other bits read 0. -/
structure RecRegs where
  info : Word
  prn : Word
  week : BitVec 16
  tow : Word
  aux : Word
  msgid : BitVec 16
  len : BitVec 16
  ext : Word
deriving DecidableEq, Repr

/-- A collecting HAS slot `COLLECT(ms, pages)` (R56). The pages map PIDs to payloads, PIDs strictly rising
(DESIGN CHOICE of their order: log entry 13; safe). -/
structure HasGroup where
  ms : Nat
  pages : List (Nat × List Byte)
deriving DecidableEq, Repr

/-- DMEM (R58, R60). `init` is DMEM_INIT (R281): what an address that is not listed in `cells` reads as. The canonical
form of `cells` is `Memory.wf` (DESIGN CHOICE of the form: log entry 5; safe). -/
structure Memory where
  init : List Byte
  cells : List Host.Cell
deriving DecidableEq, Repr

/-- A host access (R89, R270): the block's three inputs. -/
inductive BusAccess where
  /-- `csr_read(i)`. -/
  | csrRead (i : BitVec 6)
  /-- `csr_write(i, v)`. -/
  | csrWrite (i : BitVec 6) (v : Word)
  /-- The power-on `reset` input, between two accesses (R283). -/
  | reset
deriving DecidableEq, Repr

/-- The state of the block and of its bus. -/
structure State where
  /-- The OPEN parameters of this instance (R7). DESIGN CHOICE: log entry 4; safe. -/
  params : Config.Params
  /-- The MODEL's own: the host accesses still to come, oldest first (R270, R271). DESIGN CHOICE: log entry 1; safe. -/
  bus : List BusAccess
  /-- The MODEL's own: the values the host's reads returned, oldest first (R271). DESIGN CHOICE: log entry 2; safe. -/
  busOut : List Word
  /-- STATUS.ERR (R23). -/
  err : Bool
  /-- STATUS.RECQ_OVF (R23). -/
  recqOvf : Bool
  /-- STATUS.SYNCLOST (R23). -/
  syncLost : Bool
  /-- STATUS.SF_DONE (R23). -/
  sfDone : Bool
  /-- STATUS.HAS_DONE (R23). -/
  hasDone : Bool
  /-- STATUS.HAS_FAIL (R23). -/
  hasFail : Bool
  /-- ERRCAUSE (R24). -/
  errCause : Cause
  /-- ERRCMD (R25). -/
  errCmd : Word
  /-- IRQEN (R27). -/
  irqEn : BitVec 7
  /-- FLAGS.INV (R28). -/
  inv : Bool
  /-- FLAGS.EQ (R28). -/
  eq : Bool
  /-- ARG0 (R29). -/
  arg0 : Word
  /-- ARG1 (R29). -/
  arg1 : Word
  /-- ARG2 (R29). -/
  arg2 : Word
  /-- RES (R30). -/
  res : DWord
  /-- BC_BASE (R31). -/
  bcBase : Word
  /-- BC_LEN (R32). -/
  bcLen : Word
  /-- BC_POS (R33). -/
  bcPos : Word
  /-- BW_BASE (R34). -/
  bwBase : Word
  /-- BW_CAP (R35). -/
  bwCap : Word
  /-- BW_POS (R36). -/
  bwPos : Word
  /-- CRC (R37). -/
  crc : BitVec 24
  /-- DMX_CFG (R38). -/
  dmxCfg : DmxCfg
  /-- CNT_OK (R41). -/
  cntOk : Word
  /-- CNT_ERR (R41). -/
  cntErr : Word
  /-- CNT_SKIP (R41). -/
  cntSkip : Word
  /-- CNT_DROP (R41). -/
  cntDrop : Word
  /-- CTX_WEEK (R42). -/
  ctxWeek : BitVec 16
  /-- CTX_TOW (R42). -/
  ctxTow : Word
  /-- REC_INFO to REC_EXT (R43). -/
  recRegs : RecRegs
  /-- The pending buffer `P` (R53). -/
  pending : List Byte
  /-- The best-satellite table (R54); `BSS_N` is its length. DESIGN CHOICE of its order: log entry 12; safe. -/
  bssTable : List Record
  /-- BSS_TOW (R40). -/
  bssTow : Word
  /-- The record queue, oldest first (R55). -/
  queue : List Record
  /-- EMITTED (R178): the records the current command has put into the queue. DESIGN CHOICE of its place: log entry 7; safe. -/
  emitted : Nat
  /-- SFA_BASE (R44). -/
  sfaBase : Word
  /-- `N` of the subframe assembler (R57). -/
  sfaN : Nat
  /-- SFA_PRN (R57). -/
  sfaPrn : Byte
  /-- SFA_VENDOR (R57). -/
  sfaVendor : BitVec 3
  /-- HAS_DST (R47). -/
  hasDst : Word
  /-- The HAS slots (R56): entry `m - 1` is the slot of MID `m`, `none` is EMPTY. -/
  hasSlots : Vector (Option HasGroup) 31
  /-- MEM_ADDR (R50). -/
  memAddr : BitVec 13
  /-- DMEM (R58). -/
  mem : Memory
deriving DecidableEq, Repr

/-- Why the block would stop. It has no constructor: "No error is fatal to the pipeline" and "There is no halted or
lockup state" (R258). DEDUCED: log entry 18; safe. -/
inductive Fault where
deriving DecidableEq, Repr

/-- Why a command would have no meaning. -/
inductive Refusal where
  /-- Raised by an arm of `exec` whose command has no meaning yet. No arm raises it: every command has its meaning. Safe. -/
  | notModelled (mnemonic : String)
deriving DecidableEq, Repr

/-- What DMX_CFG is after reset (R280). -/
def DmxCfg.reset : DmxCfg := ⟨.none, false, false, 0⟩

/-- What the REC_* registers are after reset (R280). -/
def RecRegs.reset : RecRegs := ⟨0, 0, 0, 0, 0, 0, 0, 0⟩

/-- The state after power-on reset (R280, R281) of an instance with these OPEN parameters, with no host access
to come. -/
def State.powerOn (params : Config.Params) (dmemInit : List Byte) : State where
  params := params
  bus := []
  busOut := []
  err := false
  recqOvf := false
  syncLost := false
  sfDone := false
  hasDone := false
  hasFail := false
  errCause := .none
  errCmd := 0
  irqEn := 0
  inv := false
  eq := false
  arg0 := 0
  arg1 := 0
  arg2 := 0
  res := 0
  bcBase := 0
  bcLen := 0
  bcPos := 0
  bwBase := 0
  bwCap := 0
  bwPos := 0
  crc := params.crc24qInit
  dmxCfg := .reset
  cntOk := 0
  cntErr := 0
  cntSkip := 0
  cntDrop := 0
  ctxWeek := 0
  ctxTow := 0
  recRegs := .reset
  pending := []
  bssTable := []
  bssTow := 0
  queue := []
  emitted := 0
  sfaBase := 0
  sfaN := 0
  sfaPrn := 0
  sfaVendor := 0
  hasDst := 0
  hasSlots := Vector.replicate 31 none
  memAddr := 0
  mem := ⟨dmemInit, []⟩

/-- The machine right after power-on reset, for the OPEN parameters of `Config`. -/
def State.reset : State := .powerOn Config.params Config.dmemInit

end Sys2Proof.Machine
end

