-- ==== Sys2Proof/Machine/Ops.lean ====
section
/-! DEFINITION. The operations every command shares: DMEM (20_memory.md), bit streams (R9, R100, R108), the command
error (R251) and its acknowledgement (R257), the result register, the reset action (R280) and the record queue (R178). -/

namespace Sys2Proof.Machine

open Sys2Proof

/-! ### DMEM -/

/-- What an address that nothing has written reads as: its byte of DMEM_INIT (R281). Log entry 5. -/
def Memory.unlisted (m : Memory) (a : Nat) : Byte := m.init.getD a 0

/-- The byte listed at an address. -/
def lookupCell (a : Nat) : List Host.Cell → Option Byte
  | [] => none
  | (b, v) :: cs => if a = b then some v else lookupCell a cs

/-- Lists `v` at address `a`, addresses rising. -/
def insertCell (a : Nat) (v : Byte) : List Host.Cell → List Host.Cell
  | [] => [(a, v)]
  | (b, w) :: cs =>
    if a < b then (a, v) :: (b, w) :: cs
    else if a = b then (a, v) :: cs
    else (b, w) :: insertCell a v cs

/-- Lists nothing at address `a`. -/
def eraseCell (a : Nat) : List Host.Cell → List Host.Cell
  | [] => []
  | (b, w) :: cs => if a = b then cs else (b, w) :: eraseCell a cs

/-- One byte of DMEM. -/
def Memory.readByte (m : Memory) (a : Nat) : Byte := (lookupCell a m.cells).getD (m.unlisted a)

/-- One byte stored into DMEM. There is no byte at `a ≥ DMEM_SIZE` (R60) and every command checks its range first
(R62), so nothing is stored there (log entry 17). -/
def Memory.writeByte (m : Memory) (a : Nat) (v : Byte) : Memory :=
  if a < Config.dmemSize then
    if v = m.unlisted a then { m with cells := eraseCell a m.cells }
    else { m with cells := insertCell a v m.cells }
  else m

/-- `MemRead(a, n)` (R11). -/
def Memory.readBytes (m : Memory) (a n : Nat) : List Byte := (List.range n).map fun i => m.readByte (a + i)

/-- `MemWrite(a, |bs|, bs)` (R11). -/
def Memory.writeBytes (m : Memory) (a : Nat) : List Byte → Memory
  | [] => m
  | v :: bs => (m.writeByte a v).writeBytes (a + 1) bs

/-- The canonical form of DMEM: addresses of DMEM strictly rising, and no listed byte that the address would read as
unlisted. -/
def Memory.wf (m : Memory) : Bool :=
  decide (m.cells.Pairwise fun c d => c.1 < d.1) &&
    m.cells.all fun c => decide (c.1 < Config.dmemSize) && decide (c.2 ≠ m.unlisted c.1)

/-- The range check of R62: `n` bytes from `a` are legal, in unbounded arithmetic. -/
def inDmem (a n : Nat) : Bool := decide (n = 0) || decide (a + n ≤ Config.dmemSize)

/-! ### Bit streams -/

/-- Bit `k` of a byte, counted from the most significant: stream bit `k` of R9 within its byte. -/
def byteBit (b : Byte) (k : Nat) : Bool := b.getLsbD (7 - k % 8)

/-- The value of `n` stream bits, first bit most significant (R9). -/
def bitsVal (bit : Nat → Bool) : Nat → Nat
  | 0 => 0
  | n + 1 => 2 * bitsVal bit n + (bit n).toNat

/-- Stream bit `k` of DMEM from byte `base`: `ViewBit(k)` (R100). -/
def Memory.readBit (m : Memory) (base k : Nat) : Bool := byteBit (m.readByte (base + k / 8)) k

/-- `ReadBits(p, n)` of the stream from byte `base` (R100). -/
def Memory.readBits (m : Memory) (base p n : Nat) : Nat := bitsVal (fun i => m.readBit base (p + i)) n

/-- A byte with bit `k`, counted from the most significant, set to `b` (R108). -/
def setByteBit (v : Byte) (k : Nat) (b : Bool) : Byte :=
  (v &&& ~~~(1#8 <<< (7 - k % 8))) ||| ((BitVec.ofBool b).setWidth 8 <<< (7 - k % 8))

/-- `WriteBit(k, b)` of the stream from byte `base` (R108). -/
def Memory.writeBit (m : Memory) (base k : Nat) (b : Bool) : Memory :=
  m.writeByte (base + k / 8) (setByteBit (m.readByte (base + k / 8)) k b)

/-- `n` stream bits from position `p`, bit `p + i` set to `bit i`, in order. -/
def Memory.writeBits (m : Memory) (base p : Nat) (bit : Nat → Bool) : Nat → Memory
  | 0 => m
  | n + 1 => (m.writeBits base p bit n).writeBit base (p + n) (bit n)

/-! ### Command errors -/

/-- `raise CmdError(c)` while the command word `w` is executed (R251): the first error is latched, nothing else
changes. -/
def raiseCmdError (c : Cause) (w : Word) (s : State) : State :=
  { s with
    err := true
    errCause := if s.err then s.errCause else c
    errCmd := if s.err then s.errCmd else w }

/-- The host acknowledges an error by writing 1 to STATUS.ERR (R23, R257). -/
def acknowledgeError (s : State) : State :=
  { s with err := false, errCause := .none, errCmd := 0 }

/-- The end of a command: the state it reached, or its command error with none of its effect (R250, R251). The command
word is the one encoding of the command (R86, log entry 8). -/
def finish (i : Instr) (s : State) (r : Except Cause State) : Host.Outcome State Fault Refusal :=
  match r with
  | .ok t => .next t
  | .error c => .next (raiseCmdError c (encode i) s)

/-! ### Result and reset -/

/-- `RES <- zext_64(v)` (R30). -/
def setRes (v : Nat) (s : State) : State := { s with res := BitVec.ofNat 64 v }

/-- The reset action of R280 with DMEM kept (R281), as SRST performs it. What is not the block's stays: the host's
accesses, the data they returned and the instance's parameters (log entry 11). -/
def softReset (s : State) : State :=
  { State.powerOn s.params s.mem.init with mem := s.mem, bus := s.bus, busOut := s.busOut }

/-- The power-on `reset` input (R280, R281): DMEM holds DMEM_INIT again. -/
def powerOnReset (s : State) : State :=
  { State.powerOn s.params s.mem.init with bus := s.bus, busOut := s.busOut }

/-! ### The record queue -/

/-- `Emit(rec)` (R178). -/
def emit (r : Record) (s : State) : State :=
  if s.queue.length = Config.recqDepth then { s with cntDrop := s.cntDrop + 1, recqOvf := true }
  else { s with queue := s.queue ++ [r], emitted := s.emitted + 1 }

end Sys2Proof.Machine
end

