-- ==== Sys2Proof/Machine/Operands.lean ====
section
/-! DEFINITION. How bytes and fields make up operands and record words: byte orders (R10), the codes of enumerated
fields (R24, R171, R177), HAS.PAGE's packed operand (R84) and the REC_INFO image (R43). -/

namespace Sys2Proof.Machine

open Sys2Proof

/-! ### Byte sequences -/

/-- `P[i]` (R10). -/
def byteAt (p : List Byte) (i : Nat) : Byte := p.getD i 0

/-- `P[a..b)` (R10). -/
def slice (p : List Byte) (a b : Nat) : List Byte := (p.drop a).take (b - a)

/-- `LE16(P[a..])` (R10). -/
def le16 (p : List Byte) (a : Nat) : Nat := (byteAt p a).toNat + 256 * (byteAt p (a + 1)).toNat

/-- `LE32(P[a..])` (R10). -/
def le32 (p : List Byte) (a : Nat) : Nat := le16 p a + 65536 * le16 p (a + 2)

/-- `BE16(P[a..])` (R10). -/
def be16 (p : List Byte) (a : Nat) : Nat := 256 * (byteAt p a).toNat + (byteAt p (a + 1)).toNat

/-- `BE24(P[a..])` (R10). -/
def be24 (p : List Byte) (a : Nat) : Nat := 256 * be16 p a + (byteAt p (a + 2)).toNat

/-- `BE32(P[a..])` (R10). -/
def be32 (p : List Byte) (a : Nat) : Nat := 65536 * be16 p a + be16 p (a + 2)

/-- Stream bit `k` of a byte sequence (R9). -/
def streamBit (p : List Byte) (k : Nat) : Bool := byteBit (byteAt p (k / 8)) k

/-! ### Codes -/

/-- The number in ERRCAUSE (R24, R252). -/
def Cause.bits : Cause → BitVec 4
  | .none => 0
  | .illegalOpcode => 1
  | .reservedField => 2
  | .badOperand => 3
  | .short => 4
  | .wfull => 5
  | .qempty => 6
  | .addr => 7

/-- The number of a framing kind (R171). -/
def Kind.bits : Kind → BitVec 4
  | .none => 0
  | .rtcm3 => 1
  | .allystar => 2
  | .novatel => 3
  | .sbf => 4
  | .ubx => 5
  | .rawL6 => 6
  | .rawL1s => 7
  | .rawE6b => 8
  | .rawB2b => 9

/-- The kind that a write of `k` to DMX_CFG.KIND stores: 10 to 15 store 0 (R38, R171). -/
def Kind.ofCode (k : Nat) : Kind :=
  match k with
  | 1 => .rtcm3
  | 2 => .allystar
  | 3 => .novatel
  | 4 => .sbf
  | 5 => .ubx
  | 6 => .rawL6
  | 7 => .rawL1s
  | 8 => .rawE6b
  | 9 => .rawB2b
  | _ => .none

/-- A kind whose records carry a satellite number, which the PIN filter reads (R180, R194). -/
def Kind.carriesPrn : Kind → Bool
  | .none => false
  | .rtcm3 => false
  | .allystar => true
  | .novatel => false
  | .sbf => false
  | .ubx => false
  | .rawL6 => true
  | .rawL1s => true
  | .rawE6b => true
  | .rawB2b => true

/-- The number of a stage (R177). -/
def Stage.bits : Stage → BitVec 4
  | .dmx => 1
  | .sfa => 2
  | .has => 3

/-- The number of a record code (R177, R229, R154). -/
def RecCode.bits : RecCode → Byte
  | .frame => 0x01
  | .checksumFail => 0x02
  | .lengthFail => 0x03
  | .sfComplete => 0x10
  | .sfFlush => 0x11
  | .sfAbort => 0x12
  | .sfOrphan => 0x13
  | .sfBadPre => 0x14
  | .hasDone => 0x20
  | .rsFail => 0x21
  | .msMismatch => 0x22
  | .badPid => 0x23
  | .badMid => 0x24
  | .badMs => 0x25

/-- The cause of a decode error (R85, R252). -/
def decodeCause : DecodeError → Cause
  | .illegalOpcode => .illegalOpcode
  | .reservedField => .reservedField

/-! ### Registers made of fields -/

/-- DMX_CFG as the host reads it (R38). -/
def DmxCfg.toWord (c : DmxCfg) : Word :=
  c.pinPrn ++ (0 : BitVec 10) ++ BitVec.ofBool c.pinEn ++ BitVec.ofBool c.bssEn ++ c.kind.bits

/-- What a write of `v` to DMX_CFG stores (R38). -/
def DmxCfg.ofWord (v : Word) : DmxCfg where
  kind := Kind.ofCode (v.extractLsb' 0 4).toNat
  bssEn := v.getLsbD 4
  pinEn := v.getLsbD 5
  pinPrn := v.extractLsb' 16 16

/-- The REC_INFO image of a record (R43, R192). -/
def Record.info (r : Record) : Word :=
  (0 : BitVec 9) ++ r.errmap ++ r.code.bits ++ r.kind.bits ++ r.stage.bits

/-- What REC.POP latches from the record it removes (R43, R192). -/
def RecRegs.ofRecord (r : Record) : RecRegs where
  info := r.info
  prn := r.prn
  week := r.week
  tow := r.tow
  aux := r.aux
  msgid := r.msgid
  len := BitVec.ofNat 16 r.body.length
  ext := r.ext

/-! ### HAS.PAGE's operand -/

/-- HAS.PAGE's operands (R84, R146). -/
structure HasOperand where
  pid : Nat
  mid : Nat
  ms : Nat
  prn : Byte
deriving DecidableEq, Repr

/-- The fields of ARG1 (R84); bits `[15:13]` and `[23:22]` are ignored. -/
def hasOperand (arg1 : Word) : HasOperand where
  pid := (arg1.extractLsb' 0 8).toNat
  mid := (arg1.extractLsb' 8 5).toNat
  ms := (arg1.extractLsb' 16 6).toNat
  prn := arg1.extractLsb' 24 8

end Sys2Proof.Machine
end

