-- ==== Sys2Proof/Machine/Flags.lean ====
section
/-! DEFINITION. STATUS and its write-one-to-clear (R23), the interrupt output (R260), FLAGS (R28) and how BC.RDS and
CRC.CHK compute its bits (R104, R124). -/

namespace Sys2Proof.Machine

open Sys2Proof

/-- STATUS.RECQ_NE (R23): a level. -/
def recqNe (s : State) : Bool := !s.queue.isEmpty

/-- STATUS as the host reads it (R23); BUSY and the bits above it read 0. -/
def statusWord (s : State) : Word :=
  (0 : BitVec 25) ++ BitVec.ofBool s.hasFail ++ BitVec.ofBool s.hasDone ++ BitVec.ofBool s.sfDone ++
    BitVec.ofBool s.syncLost ++ BitVec.ofBool s.recqOvf ++ BitVec.ofBool (recqNe s) ++ BitVec.ofBool s.err

/-- A write of `v` to STATUS (R23): a 1 clears its bit; ERR also clears ERRCAUSE and ERRCMD; the read-only bits
ignore it. -/
def writeStatus (v : Word) (s : State) : State :=
  let t := if v.getLsbD 0 then acknowledgeError s else s
  { t with
    recqOvf := s.recqOvf && !v.getLsbD 2
    syncLost := s.syncLost && !v.getLsbD 3
    sfDone := s.sfDone && !v.getLsbD 4
    hasDone := s.hasDone && !v.getLsbD 5
    hasFail := s.hasFail && !v.getLsbD 6 }

/-- The interrupt output (R260): `OR_{i=0..6} (STATUS[i] & IRQEN[i])`. -/
def irq (s : State) : Bool := decide ((statusWord s).extractLsb' 0 7 &&& s.irqEn ≠ 0)

/-- FLAGS as the host reads it (R28). -/
def flagsWord (s : State) : Word := (0 : BitVec 30) ++ BitVec.ofBool s.eq ++ BitVec.ofBool s.inv

/-- The `n`-bit field value `u` read as two's complement (R12). -/
def signedField (n u : Nat) : Int := if u ≥ 2 ^ (n - 1) then (u : Int) - 2 ^ n else u

/-- FLAGS.INV after BC.RDS (R104): the field holds the most-negative value of its width. -/
def mostNegative (n u : Nat) : Bool := decide (u = 2 ^ (n - 1))

end Sys2Proof.Machine
end

