-- ==== Sys2Proof/Machine/Csr.lean ====
section
/-! DEFINITION. The CSR space (10_state.md): what each index reads as and what a write to it does. CMD's effect is in
Machine/Command.lean. -/

namespace Sys2Proof.Machine

open Sys2Proof

/-- DMX_STAT (R39). -/
def dmxStat (s : State) : Word :=
  (0 : BitVec 10) ++ BitVec.ofNat 6 s.bssTable.length ++ (0 : BitVec 4) ++ BitVec.ofNat 12 s.pending.length

/-- SFA_STAT (R45). -/
def sfaStat (s : State) : Word :=
  (0 : BitVec 13) ++ s.sfaVendor ++ s.sfaPrn ++ (0 : BitVec 4) ++ BitVec.ofNat 4 s.sfaN

/-- HAS_LIVE over the slots from MID `m` on (R48). -/
def liveBits (m : Nat) : List (Option HasGroup) → Word
  | [] => 0
  | g :: gs => (if g.isSome then 1#32 <<< m else 0) ||| liveBits (m + 1) gs

/-- What the host reads at a CSR index (R20 to R52), without the side effect of MEM_DATA. -/
def csrValue (i : BitVec 6) (s : State) : Word :=
  match i.toNat with
  | 0x00 => Config.idValue
  | 0x02 => statusWord s
  | 0x03 => s.errCause.bits.setWidth 32
  | 0x04 => s.errCmd
  | 0x05 => s.irqEn.setWidth 32
  | 0x06 => flagsWord s
  | 0x08 => s.arg0
  | 0x09 => s.arg1
  | 0x0A => s.arg2
  | 0x0C => s.res.extractLsb' 0 32
  | 0x0D => s.res.extractLsb' 32 32
  | 0x10 => s.bcBase
  | 0x11 => s.bcLen
  | 0x12 => s.bcPos
  | 0x14 => s.bwBase
  | 0x15 => s.bwCap
  | 0x16 => s.bwPos
  | 0x18 => s.crc.setWidth 32
  | 0x20 => s.dmxCfg.toWord
  | 0x21 => dmxStat s
  | 0x22 => s.cntOk
  | 0x23 => s.cntErr
  | 0x24 => s.cntSkip
  | 0x25 => s.cntDrop
  | 0x26 => s.ctxWeek.setWidth 32
  | 0x27 => s.ctxTow
  | 0x28 => s.recRegs.info
  | 0x29 => s.recRegs.prn
  | 0x2A => s.recRegs.week.setWidth 32
  | 0x2B => s.recRegs.tow
  | 0x2C => s.recRegs.aux
  | 0x2D => s.recRegs.msgid.setWidth 32
  | 0x2E => s.recRegs.len.setWidth 32
  | 0x2F => s.recRegs.ext
  | 0x30 => s.sfaBase
  | 0x31 => sfaStat s
  | 0x32 => BitVec.ofNat 32 (Config.dataPartBits * s.sfaN)
  | 0x34 => s.hasDst
  | 0x35 => liveBits 1 s.hasSlots.toList
  | 0x38 => BitVec.ofNat 32 s.queue.length
  | 0x39 => s.bssTow
  | 0x3C => s.memAddr.setWidth 32
  | 0x3D => (s.mem.readByte s.memAddr.toNat).setWidth 32
  | _ => 0

/-- The side effect of a read: MEM_DATA moves MEM_ADDR (R51); no other read has one (R65). -/
def readEffect (i : BitVec 6) (s : State) : State :=
  if i = 0x3D then { s with memAddr := s.memAddr + 1 } else s

/-- A write of `v` to BC_LEN (R32). -/
def writeBcLen (v : Word) (s : State) : State :=
  { s with bcLen := v, bcPos := if s.bcPos ≤ v then s.bcPos else v }

/-- A write of `v` to BC_POS (R33). -/
def writeBcPos (v : Word) (s : State) : State := { s with bcPos := if v ≤ s.bcLen then v else s.bcLen }

/-- A write of `v` to BW_CAP (R35). -/
def writeBwCap (v : Word) (s : State) : State :=
  { s with bwCap := v, bwPos := if s.bwPos ≤ v then s.bwPos else v }

/-- A write of `v` to BW_POS (R36). -/
def writeBwPos (v : Word) (s : State) : State := { s with bwPos := if v ≤ s.bwCap then v else s.bwCap }

/-- A write of `v` to DMX_CFG (R38): a change of KIND or BSS_EN drops what is pending (R199). -/
def writeDmxCfg (v : Word) (s : State) : State :=
  let c := DmxCfg.ofWord v
  if c.kind = s.dmxCfg.kind ∧ c.bssEn = s.dmxCfg.bssEn then { s with dmxCfg := c }
  else { s with dmxCfg := c, pending := [], bssTable := [], bssTow := 0 }

/-- A write of `v` to MEM_DATA (R51). -/
def writeMemData (v : Word) (s : State) : State :=
  { s with
    mem := s.mem.writeByte s.memAddr.toNat (v.extractLsb' 0 8)
    memAddr := s.memAddr + 1 }

/-- A host write of `v` to a CSR other than CMD (R20 to R52): writes to read-only and reserved indices are ignored. -/
def csrStore (i : BitVec 6) (v : Word) (s : State) : State :=
  match i.toNat with
  | 0x02 => writeStatus v s
  | 0x05 => { s with irqEn := v.extractLsb' 0 7 }
  | 0x08 => { s with arg0 := v }
  | 0x09 => { s with arg1 := v }
  | 0x0A => { s with arg2 := v }
  | 0x10 => { s with bcBase := v }
  | 0x11 => writeBcLen v s
  | 0x12 => writeBcPos v s
  | 0x14 => { s with bwBase := v }
  | 0x15 => writeBwCap v s
  | 0x16 => writeBwPos v s
  | 0x18 => { s with crc := v.extractLsb' 0 24 }
  | 0x20 => writeDmxCfg v s
  | 0x22 => { s with cntOk := v }
  | 0x23 => { s with cntErr := v }
  | 0x24 => { s with cntSkip := v }
  | 0x25 => { s with cntDrop := v }
  | 0x26 => { s with ctxWeek := v.extractLsb' 0 16 }
  | 0x27 => { s with ctxTow := v }
  | 0x30 => { s with sfaBase := v }
  | 0x34 => { s with hasDst := v }
  | 0x3C => { s with memAddr := v.extractLsb' 0 13 }
  | 0x3D => writeMemData v s
  | _ => s

end Sys2Proof.Machine
end

