-- ==== Sys2Proof/Machine/BitStream.lean ====
section
/-! DEFINITION. The bit cursor and the bit writer (40_bitstream.md). -/

namespace Sys2Proof.Machine

open Sys2Proof

/-- The checks of R101 and, when they pass, `ReadBits(BC_POS, n)` (R100). -/
def viewRead (n : Nat) (s : State) : Except Cause Nat :=
  if n = 0 then .ok 0
  else if s.bcPos.toNat + n > s.bcLen.toNat then .error .short
  else if s.bcBase.toNat + (s.bcPos.toNat + n - 1) / 8 ≥ Config.dmemSize then .error .addr
  else .ok (s.mem.readBits s.bcBase.toNat s.bcPos.toNat n)

/-- `BC_POS <- BC_POS + n`. -/
def advanceCursor (n : Nat) (s : State) : State :=
  { s with bcPos := BitVec.ofNat 32 (s.bcPos.toNat + n) }

/-- The pseudocode of BC.RDU (R102). -/
def readUnsigned (n : Nat) (s : State) : Except Cause State :=
  if n > 64 then .error .badOperand
  else match viewRead n s with
    | .error c => .error c
    | .ok v => .ok (advanceCursor n (setRes v s))

/-- The pseudocode of BC.PEEK (R103). -/
def peekUnsigned (n : Nat) (s : State) : Except Cause State :=
  if n > 64 then .error .badOperand
  else match viewRead n s with
    | .error c => .error c
    | .ok v => .ok (setRes v s)

/-- The pseudocode of BC.RDS (R104). -/
def readSigned (n : Nat) (s : State) : Except Cause State :=
  if n = 0 ∨ n > 64 then .error .badOperand
  else match viewRead n s with
    | .error c => .error c
    | .ok u => .ok (advanceCursor n { s with res := BitVec.ofInt 64 (signedField n u), inv := mostNegative n u })

/-- The pseudocode of BC.ADV (R105): no DMEM byte is read, so there is no ADDR check. -/
def skipBits (m : Nat) (s : State) : Except Cause State :=
  if s.bcPos.toNat + m > s.bcLen.toNat then .error .short else .ok (advanceCursor m s)

/-- The writer's checks for `n` more bits, WFULL then ADDR, and when they pass the sink with `bit i` at `BW_POS + i`
(R108 to R110). -/
def sinkWrite (n : Nat) (bit : Nat → Bool) (s : State) : Except Cause State :=
  if s.bwPos.toNat + n > s.bwCap.toNat then .error .wfull
  else if n > 0 ∧ s.bwBase.toNat + (s.bwPos.toNat + n - 1) / 8 ≥ Config.dmemSize then .error .addr
  else .ok { s with
    mem := s.mem.writeBits s.bwBase.toNat s.bwPos.toNat bit n
    bwPos := BitVec.ofNat 32 (s.bwPos.toNat + n) }

/-- `ARG1·2^32 + ARG0` (R109). -/
def writerValue (s : State) : DWord := s.arg1 ++ s.arg0

/-- The pseudocode of BW.WR (R109): bit `i` is bit `n - 1 - i` of the value. -/
def writeField (n : Nat) (s : State) : Except Cause State :=
  if n > 64 then .error .badOperand
  else sinkWrite n (fun i => (writerValue s).getLsbD (n - 1 - i)) s

/-- The zero bits that fill the sink's last byte (R110). -/
def alignGap (s : State) : Nat := (8 - s.bwPos.toNat % 8) % 8

/-- `BC.RDU n` (R102). -/
def execBcRdu (n : Nat) (s : State) : Host.Outcome State Fault Refusal := finish (.bcRdu n) s (readUnsigned n s)

/-- `BC.RDS n` (R104). -/
def execBcRds (n : Nat) (s : State) : Host.Outcome State Fault Refusal := finish (.bcRds n) s (readSigned n s)

/-- `BC.PEEK n` (R103). -/
def execBcPeek (n : Nat) (s : State) : Host.Outcome State Fault Refusal := finish (.bcPeek n) s (peekUnsigned n s)

/-- `BC.ADV imm16` (R105). -/
def execBcAdv (m : Nat) (s : State) : Host.Outcome State Fault Refusal := finish (.bcAdv m) s (skipBits m s)

/-- `BC.REM` (R106). -/
def execBcRem (s : State) : Host.Outcome State Fault Refusal :=
  finish .bcRem s (.ok (setRes (s.bcLen.toNat - s.bcPos.toNat) s))

/-- `BW.WR n` (R109). -/
def execBwWr (n : Nat) (s : State) : Host.Outcome State Fault Refusal := finish (.bwWr n) s (writeField n s)

/-- `BW.ALIGN` (R110). -/
def execBwAlign (s : State) : Host.Outcome State Fault Refusal :=
  finish .bwAlign s (sinkWrite (alignGap s) (fun _ => false) s)

end Sys2Proof.Machine
end

