-- ==== Sys2Proof/Machine/Crc.lean ====
section
/-! DEFINITION. CRC-24Q, the RTCM 3 frame test and the RTCM encoder (41_crc24q_rtcm.md). -/

namespace Sys2Proof.Machine

open Sys2Proof

/-- One of the eight shifts that make a table entry (R120). -/
def crcShift (r : BitVec 25) : BitVec 25 :=
  if (r <<< 1).getLsbD 24 then (r <<< 1) ^^^ BitVec.ofNat 25 Config.crc24qPoly else r <<< 1

/-- `T24[i]` (R120). -/
def crcTable (i : Byte) : BitVec 24 := (crcShift^[8] (i.setWidth 25 <<< 16)).setWidth 24

/-- `Step24(c, b)` (R125). -/
def crcStep (c : BitVec 24) (b : Byte) : BitVec 24 := (c <<< 8) ^^^ crcTable (c.extractLsb' 16 8 ^^^ b)

/-- `CRC24Q(init, B)` (R125). -/
def crc24q (init : BitVec 24) (bs : List Byte) : BitVec 24 := bs.foldl crcStep init

/-- The three trailer bytes of a CRC (R126). -/
def crcTrailer (c : BitVec 24) : List Byte := [c.extractLsb' 16 8, c.extractLsb' 8 8, c.extractLsb' 0 8]

/-- `CRC.INIT` (R121). -/
def execCrcInit (s : State) : Host.Outcome State Fault Refusal :=
  finish .crcInit s (.ok { s with crc := s.params.crc24qInit })

/-- `CRC.BYTE imm8` (R122). -/
def execCrcByte (b : Byte) (s : State) : Host.Outcome State Fault Refusal :=
  finish (.crcByte b) s (.ok { s with crc := crcStep s.crc b })

/-- The pseudocode of CRC.MEM (R123). -/
def foldDmem (s : State) : Except Cause State :=
  if inDmem s.arg0.toNat s.arg1.toNat then
    .ok { s with crc := crc24q s.crc (s.mem.readBytes s.arg0.toNat s.arg1.toNat) }
  else .error .addr

/-- `CRC.MEM` (R123). -/
def execCrcMem (s : State) : Host.Outcome State Fault Refusal := finish .crcMem s (foldDmem s)

/-- The pseudocode of CRC.CHK (R124). -/
def checkTrailer (s : State) : Except Cause State :=
  if inDmem s.arg0.toNat 3 then
    .ok { s with eq := decide (s.crc.toNat = be24 (s.mem.readBytes s.arg0.toNat 3) 0) }
  else .error .addr

/-- `CRC.CHK` (R124). -/
def execCrcChk (s : State) : Host.Outcome State Fault Refusal := finish .crcChk s (checkTrailer s)

/-- The header and payload of an RTCM 3 frame, reserved bits 0 (R127, R128). -/
def rtcmBody (pay : List Byte) : List Byte :=
  [0xD3, BitVec.ofNat 8 (pay.length / 256 % 4), BitVec.ofNat 8 (pay.length % 256)] ++ pay

/-- The RTCM 3 frame around a payload (R128). -/
def rtcmFrame (init : BitVec 24) (pay : List Byte) : List Byte :=
  rtcmBody pay ++ crcTrailer (crc24q init (rtcmBody pay))

/-- The pseudocode of RTCM.ENC (R128): the payload is read before the frame is written (R66). -/
def encodeRtcm (s : State) : Except Cause State :=
  let src := s.arg0.toNat
  let len := s.arg1.toNat
  let dst := s.arg2.toNat
  if len = 0 ∨ len > 1023 then .error .badOperand
  else if src + len > Config.dmemSize ∨ dst + len + 6 > Config.dmemSize then .error .addr
  else .ok (setRes (len + 6)
    { s with mem := s.mem.writeBytes dst (rtcmFrame s.params.crc24qInit (s.mem.readBytes src len)) })

/-- `RTCM.ENC` (R128). -/
def execRtcmEnc (s : State) : Host.Outcome State Fault Refusal := finish .rtcmEnc s (encodeRtcm s)

end Sys2Proof.Machine
end

