-- ==== Sys2Proof/Machine/Demux.lean ====
section
/-! DEFINITION. The framed-stream demultiplexer (43_demux.md): classification of the pending bytes, the scan, delivery
with the PIN filter and best-satellite selection, and the commands. -/

namespace Sys2Proof.Machine

open Sys2Proof

/-! ### Classification (R173, R181 to R189) -/

/-- What an accepted frame says of its record (R190); `time` is the frame's own week and time of week, if it has any
(R177). -/
structure FrameFields where
  errmap : BitVec 7
  prn : Word
  time : Option (BitVec 16 × Word)
  aux : Word
  msgid : BitVec 16
  ext : Word
  body : List Byte
deriving DecidableEq, Repr

/-- The outcomes of `Classify` (R173). -/
inductive Class where
  | needMore
  | noSync
  | err (code : RecCode) (bit : Nat)
  | ok (n : Nat) (f : FrameFields)
deriving DecidableEq, Repr

/-- `SyncMatch(P, S)` (R173): `none` when it passes. -/
def syncMatch : List Byte → List Byte → Option Class
  | _, [] => none
  | [], _ :: _ => some .needMore
  | p :: ps, x :: xs => if p = x then syncMatch ps xs else some .noSync

/-- The rest of a kind's rule, once the sync pattern passes (R173). -/
def afterSync (p sync : List Byte) (rest : Class) : Class := (syncMatch p sync).getD rest

/-- `need n bytes` (R173). -/
def need (p : List Byte) (n : Nat) (rest : Class) : Class := if p.length < n then .needMore else rest

/-- A length field that is wrong (R191). -/
def lengthError : Class := .err .lengthFail 1

/-- A checksum that is wrong (R191). -/
def checksumError : Class := .err .checksumFail 0

/-- A record without satellite, time and extra fields (R190). -/
def plainFields (msgid : Nat) (body : List Byte) : FrameFields :=
  ⟨0, 0, none, 0, BitVec.ofNat 16 msgid, 0, body⟩

/-- `RtcmClassify(P)` (R127, R181). -/
def classifyRtcm (init : BitVec 24) (p : List Byte) : Class :=
  let len := 256 * ((byteAt p 1).toNat % 4) + (byteAt p 2).toNat
  if byteAt p 0 ≠ 0xD3 then .noSync
  else need p 2 <|
  if byteAt p 1 >>> 2 ≠ 0 then .noSync
  else need p 3 <|
  if len = 0 then lengthError
  else need p (len + 6) <|
  if (crc24q init (slice p 0 (len + 3))).toNat ≠ be24 p (len + 3) then checksumError
  else .ok (len + 6) (plainFields
    (if len ≥ 2 then 16 * (byteAt p 3).toNat + (byteAt p 4).toNat / 16 else 0xFFFF) (slice p 3 (3 + len)))

/-- `Fletcher8(B)` (R182). -/
def fletcher8 (bs : List Byte) : Byte × Byte := bs.foldl (fun (a, b) x => (a + x, b + (a + x))) (0, 0)

/-- ERRMAP of an Allystar frame (R189, R191). -/
def allystarErrmap (dlen flags : Byte) : BitVec 7 :=
  BitVec.ofBool (flags >>> 3 != 0) ++ BitVec.ofBool (flags.getLsbD 2) ++ BitVec.ofBool (flags.getLsbD 1) ++
    BitVec.ofBool (flags.getLsbD 0) ++ BitVec.ofBool (decide ((dlen.toNat : Int) - 2 ≠ 63)) ++ (0 : BitVec 2)

/-- `AllystarRec(P)` (R189). -/
def allystarFields (p : List Byte) : FrameFields where
  errmap := allystarErrmap (byteAt p 9) (byteAt p 17)
  prn := BitVec.ofInt 32 ((le16 p 6 : Int) - 700)
  time := some (BitVec.ofNat 16 (be16 p 10), BitVec.ofNat 32 (be32 p 12))
  aux := byteAt p 9 ++ byteAt p 17 ++ byteAt p 8 ++ byteAt p 16
  msgid := 0
  ext := BitVec.ofNat 32 (be16 p 268)
  body := slice p 18 (18 + Config.alstL6Bytes)

/-- `AllystarClassify(P)` (R182). -/
def classifyAllystar (p : List Byte) : Class :=
  afterSync p [0xF1, 0xD9, 0x02, 0x10] <|
  need p 6 <|
  if le16 p 4 ≠ 264 then lengthError
  else need p 272 <|
  if fletcher8 (slice p 2 270) ≠ (byteAt p 270, byteAt p 271) then checksumError
  else .ok 272 (allystarFields p)

/-- One of the eight shifts of CRC32R (R183). -/
def crc32Shift (c : Word) : Word := if c.getLsbD 0 then (c >>> 1) ^^^ 0xEDB88320 else c >>> 1

/-- `CRC32R(B)` (R183). -/
def crc32r (bs : List Byte) : Word :=
  bs.foldl (fun c x => crc32Shift^[8] (c ^^^ x.setWidth 32)) Config.novatelCrc32Init

/-- `NovatelClassify(P)` (R183). -/
def classifyNovatel (p : List Byte) : Class :=
  let h := (byteAt p 3).toNat
  let m := le16 p 8
  afterSync p [0xAA, 0x44, 0x12] <|
  need p 4 <|
  if h < 10 then lengthError
  else need p 10 <|
  if m = 0 ∨ h + m + 4 > Config.dmxMaxLen then lengthError
  else need p (h + m + 4) <|
  if (crc32r (slice p 0 (h + m))).toNat ≠ le32 p (h + m) then checksumError
  else .ok (h + m + 4)
    { plainFields (le16 p 4) (slice p h (h + m)) with ext := BitVec.ofNat 32 h }

/-- One of the eight shifts of CRC16 (R184). -/
def crc16Shift (c : BitVec 16) : BitVec 16 := if c.getLsbD 15 then (c <<< 1) ^^^ 0x1021 else c <<< 1

/-- `x << 8` (R184). -/
def upperByte (x : Byte) : BitVec 16 := x.setWidth 16 <<< 8

/-- `CRC16(B)` (R184). -/
def crc16 (bs : List Byte) : BitVec 16 :=
  bs.foldl (fun c x => crc16Shift^[8] (c ^^^ upperByte x)) Config.sbfCrc16Init

/-- `SbfClassify(P)` (R184). -/
def classifySbf (p : List Byte) : Class :=
  let n := le16 p 6
  let blockId := le16 p 4
  afterSync p [0x24, 0x40] <|
  need p 8 <|
  if n = 0 ∨ n % 4 ≠ 0 ∨ n < 8 ∨ n > Config.dmxMaxLen then lengthError
  else need p n <|
  if (crc16 (slice p 4 n)).toNat ≠ le16 p 2 then checksumError
  else .ok n { plainFields (blockId % 8192) (slice p 8 n) with ext := BitVec.ofNat 32 (blockId / 8192) }

/-- `UbxClassify(P)` (R185). -/
def classifyUbx (p : List Byte) : Class :=
  let n := le16 p 4
  afterSync p [0xB5, 0x62] <|
  need p 6 <|
  if n = 0 ∨ n + 8 > Config.dmxMaxLen then lengthError
  else need p (n + 8) <|
  if fletcher8 (slice p 2 (6 + n)) ≠ (byteAt p (6 + n), byteAt p (7 + n)) then checksumError
  else .ok (n + 8) (plainFields (be16 p 2) (slice p 6 (6 + n)))

/-- `RawL6Classify(P)` (R186). -/
def classifyRawL6 (p : List Byte) : Class :=
  afterSync p [0x1A, 0xCF, 0xFC, 0x1D] <|
  need p 250 <|
  .ok 250 { plainFields 0 (slice p 0 250) with
    prn := (byteAt p 4).setWidth 32
    aux := BitVec.ofNat 32 ((byteAt p 5).toNat + 256 * ((byteAt p 6).toNat / 128)) }

/-- `RawFixedClassify(P)` (R187), for records of `t` bytes with `bits` payload bits. -/
def classifyRawFixed (t bits : Nat) (p : List Byte) : Class :=
  need p t <|
  .ok t { plainFields 0 (slice p 1 t) with prn := (byteAt p 0).setWidth 32, aux := BitVec.ofNat 32 bits }

/-- `Classify(KIND, P)` (R173, R181 to R188), with CRC24Q_INIT, which the RTCM 3 rule uses. -/
def classify (init : BitVec 24) (k : Kind) (p : List Byte) : Class :=
  match k with
  | .none => .noSync
  | .rtcm3 => classifyRtcm init p
  | .allystar => classifyAllystar p
  | .novatel => classifyNovatel p
  | .sbf => classifySbf p
  | .ubx => classifyUbx p
  | .rawL6 => classifyRawL6 p
  | .rawL1s => classifyRawFixed 33 250 p
  | .rawE6b => classifyRawFixed 63 492 p
  | .rawB2b => classifyRawFixed 63 486 p

/-! ### Records (R177, R179, R190) -/

/-- The record of an accepted frame (R177, R190): without a time of its own it takes CTX_WEEK and CTX_TOW. -/
def frameRecord (s : State) (f : FrameFields) : Record where
  stage := .dmx
  kind := s.dmxCfg.kind
  code := .frame
  errmap := f.errmap
  prn := f.prn
  week := (f.time.map (·.1)).getD s.ctxWeek
  tow := (f.time.map (·.2)).getD s.ctxTow
  aux := f.aux
  msgid := f.msgid
  ext := f.ext
  body := f.body

/-- `ErrRec(code, bit)` (R179). -/
def errorRecord (s : State) (code : RecCode) (bit : Nat) : Record where
  stage := .dmx
  kind := s.dmxCfg.kind
  code := code
  errmap := 1#7 <<< bit
  prn := 0
  week := s.ctxWeek
  tow := s.ctxTow
  aux := 0
  msgid := 0
  ext := 0
  body := []

/-! ### Best-satellite selection (R195 to R197) -/

/-- A record's C/No, `AUX[7:0]` (R197). -/
def cno (r : Record) : Nat := (r.aux.extractLsb' 0 8).toNat

/-- `a` wins over `b` (R197): the larger C/No, or the same and the smaller PRN, signed. -/
def beats (a b : Record) : Bool := decide (cno a > cno b) || (decide (cno a = cno b) && a.prn.slt b.prn)

/-- The winner of a table (R197). -/
def bestRecord : List Record → Option Record
  | [] => none
  | r :: rs =>
    match bestRecord rs with
    | none => some r
    | some b => if beats b r then some b else some r

/-- `BssClose()` (R197); BSS_TOW keeps its value. -/
def bssClose (s : State) : State :=
  match bestRecord s.bssTable with
  | none => s
  | some e => { emit e s with bssTable := [] }

/-- Puts `r` in the place of the entry with its PRN (R195). -/
def replacePrn (r : Record) (t : List Record) : List Record := t.map fun e => if e.prn = r.prn then r else e

/-- The table with `r` offered to it (R195, R196). -/
def bssInsert (r : Record) (s : State) : State :=
  if s.bssTable.any (fun e => e.prn = r.prn) then { s with bssTable := replacePrn r s.bssTable }
  else if s.bssTable.length < Config.bssSlots then { s with bssTable := s.bssTable ++ [r] }
  else { s with cntDrop := s.cntDrop + 1 }

/-- `BssOffer(rec)` (R195). -/
def bssOffer (r : Record) (s : State) : State :=
  let t := if s.bssTable ≠ [] ∧ r.tow ≠ s.bssTow then bssClose s else s
  bssInsert r (if t.bssTable = [] then { t with bssTow := r.tow } else t)

/-! ### Delivery and the scan (R172, R174, R180) -/

/-- The PIN filter drops the record (R180, R194). -/
def pinRejects (s : State) (r : Record) : Bool :=
  s.dmxCfg.pinEn && s.dmxCfg.kind.carriesPrn && decide (r.prn ≠ s.dmxCfg.pinPrn.signExtend 32)

/-- `Deliver(rec)` (R180). -/
def deliver (r : Record) (s : State) : State :=
  if r.errmap ≠ 0 then emit r { s with cntErr := s.cntErr + 1 }
  else
    let t := { s with cntOk := s.cntOk + 1 }
    if pinRejects s r then t
    else if s.dmxCfg.kind = .allystar ∧ s.dmxCfg.bssEn = true then bssOffer r t
    else emit r t

/-- A NOSYNC byte is dropped (R174, R176). -/
def skipByte (rest : List Byte) (s : State) : State :=
  { s with pending := rest, cntSkip := s.cntSkip + 1, syncLost := true }

/-- An ERR outcome (R174, R179). -/
def rejectFrame (code : RecCode) (bit : Nat) (rest : List Byte) (s : State) : State :=
  let t := emit (errorRecord s code bit) s
  { t with cntErr := t.cntErr + 1, pending := rest }

/-- `Scan()` (R174). Every turn but the last takes at least one byte of `P`, so `|P|` turns are enough. -/
def scan : Nat → State → State
  | 0, s => s
  | fuel + 1, s =>
    match s.pending with
    | [] => s
    | b :: rest =>
      match classify s.params.crc24qInit s.dmxCfg.kind (b :: rest) with
      | .needMore => s
      | .noSync => scan fuel (skipByte rest s)
      | .err code bit => scan fuel (rejectFrame code bit rest s)
      | .ok n f => scan fuel (deliver (frameRecord s f) { s with pending := (b :: rest).drop n })

/-- `Push(b)` (R172). -/
def push (s : State) (b : Byte) : State :=
  scan (s.pending.length + 1) { s with pending := s.pending ++ [b] }

/-- A command that pushes bytes (R193, R200): RES counts the records it put into the queue. -/
def pushAll (bs : List Byte) (s : State) : State :=
  let t := bs.foldl push { s with emitted := 0 }
  setRes t.emitted t

/-! ### Commands -/

/-- `DMX.BYTE imm8` (R193). -/
def execDmxByte (b : Byte) (s : State) : Host.Outcome State Fault Refusal :=
  finish (.dmxByte b) s (.ok (pushAll [b] s))

/-- The pseudocode of DMX.FEED (R200): every byte is read before the first is pushed. -/
def feed (s : State) : Except Cause State :=
  if inDmem s.arg0.toNat s.arg1.toNat then .ok (pushAll (s.mem.readBytes s.arg0.toNat s.arg1.toNat) s)
  else .error .addr

/-- `DMX.FEED` (R200). -/
def execDmxFeed (s : State) : Host.Outcome State Fault Refusal := finish .dmxFeed s (feed s)

/-- The pseudocode of DMX.EOS (R198). -/
def endOfStream (s : State) : State :=
  let t := bssClose { s with
    emitted := 0
    cntSkip := s.cntSkip + BitVec.ofNat 32 s.pending.length
    pending := [] }
  setRes t.emitted t

/-- `DMX.EOS` (R198). -/
def execDmxEos (s : State) : Host.Outcome State Fault Refusal := finish .dmxEos s (.ok (endOfStream s))

/-- The pseudocode of REC.POP (R192): QEMPTY before ADDR; an empty body needs no valid address. -/
def popRecord (s : State) : Except Cause State :=
  match s.queue with
  | [] => .error .qempty
  | r :: rest =>
    if inDmem s.arg0.toNat r.body.length then
      .ok (setRes r.body.length
        { s with
          queue := rest
          mem := s.mem.writeBytes s.arg0.toNat r.body
          recRegs := RecRegs.ofRecord r })
    else .error .addr

/-- `REC.POP` (R192). -/
def execRecPop (s : State) : Host.Outcome State Fault Refusal := finish .recPop s (popRecord s)

end Sys2Proof.Machine
end

