-- ==== Sys2Proof/Machine/Gf.lean ====
section
/-! DEFINITION. GF(2^8) arithmetic (R141 to R143) and the commands that show it (R152, R153). -/

namespace Sys2Proof.Machine

open Sys2Proof

/-- The polynomial product of R141 before reduction, over the low `k` coefficients of `b`. -/
def polyMul (a b : Byte) : Nat → BitVec 16
  | 0 => 0
  | k + 1 => polyMul a b k ^^^ (if b.getLsbD k then a.setWidth 16 <<< k else 0)

/-- The reduction of R141: clears bits `7 + k` down to 8 by shifts of GF_POLY. -/
def polyReduce (p : BitVec 16) : Nat → BitVec 16
  | 0 => p
  | k + 1 => polyReduce (if p.getLsbD (k + 8) then p ^^^ (BitVec.ofNat 16 Config.gfPoly <<< k) else p) k

/-- `gmul(a, b)` (R141). -/
def gmul (a b : Byte) : Byte := (polyReduce (polyMul a b 8) 7).setWidth 8

/-- `a^2`, `a^4`, ... by repeated squaring, and their product: `a^(2 + 4 + ... + 2^k)`. -/
def squaresProduct (a : Byte) : Nat → Byte
  | 0 => 1
  | k + 1 => gmul (gmul a a) (squaresProduct (gmul a a) k)

/-- `ginv(a) = a^254` (R143), for `a ≠ 0`: `254 = 2 + 4 + ... + 128`. -/
def ginv (a : Byte) : Byte := squaresProduct a 7

/-- `GF.MUL` (R152). -/
def execGfMul (s : State) : Host.Outcome State Fault Refusal :=
  finish .gfMul s (.ok (setRes (gmul (s.arg0.extractLsb' 0 8) (s.arg1.extractLsb' 0 8)).toNat s))

/-- The pseudocode of GF.INV (R153). -/
def invert (s : State) : Except Cause State :=
  if s.arg0.extractLsb' 0 8 = 0 then .error .badOperand
  else .ok (setRes (ginv (s.arg0.extractLsb' 0 8)).toNat s)

/-- `GF.INV` (R153). -/
def execGfInv (s : State) : Host.Outcome State Fault Refusal := finish .gfInv s (invert s)

end Sys2Proof.Machine
end

