-- ==== Sys2Proof/Machine/Has.lean ====
section
/-! DEFINITION. The Galileo HAS page reassembler with its erasure decoder (42_reed_solomon_has.md). -/

namespace Sys2Proof.Machine

open Sys2Proof

/-! ### The code (R144, R147) -/

/-- `HAS_G[i][j]` (R144): the systematic part is fixed, the rest is the OPEN parameter (log entry 6). -/
def hasG (p : Config.Params) (i j : Nat) : Byte :=
  if j < 32 then (if i = j then 1 else 0) else (p.hasParity.getD i []).getD (j - 32) 0

/-- An equation of the system of R147, for all byte rows `r` at once: `Σ_i gmul(m_r[i], coef[i]) = rhs[r]`. -/
structure Equation where
  coef : List Byte
  rhs : List Byte
deriving DecidableEq, Repr

/-- `k · v`, entry by entry. -/
def scale (k : Byte) (v : List Byte) : List Byte := v.map (gmul · k)

/-- `u ⊕ v`, entry by entry (R141). -/
def addVec (u v : List Byte) : List Byte := List.zipWith (· ^^^ ·) u v

/-- The equation multiplied by `k`. -/
def Equation.scale (k : Byte) (e : Equation) : Equation := ⟨Machine.scale k e.coef, Machine.scale k e.rhs⟩

/-- The coefficient of the first unknown. -/
def Equation.head (e : Equation) : Byte := e.coef.headD 0

/-- The equation less its first unknown, whose coefficient the pivot (coefficient 1) clears. -/
def Equation.eliminate (pivot e : Equation) : Equation :=
  ⟨(addVec e.coef (Machine.scale e.head pivot.coef)).tail, addVec e.rhs (Machine.scale e.head pivot.rhs)⟩

/-- Takes out the first equation whose first unknown has a coefficient other than 0. -/
def takePivot : List Equation → Option (Equation × List Equation)
  | [] => none
  | e :: es =>
    if e.head ≠ 0 then some (e, es)
    else match takePivot es with
      | none => none
      | some (p, rest) => some (p, e :: rest)

/-- The pivot's first unknown, from the later unknowns `xs` (one list of byte rows per unknown). -/
def backSubstitute (pivot : Equation) (xs : List (List Byte)) : List Byte :=
  (List.zipWith Machine.scale pivot.coef.tail xs).foldl addVec pivot.rhs

/-- The unknowns of a square system over GF(2^8), or `none` when its matrix is singular (R147): elimination, first
unknown first. DEDUCED method: log entry 14; safe. -/
def solve : Nat → List Equation → Option (List (List Byte))
  | 0, _ => some []
  | k + 1, es =>
    match takePivot es with
    | none => none
    | some (e, rest) =>
      let pivot := e.scale (ginv e.head)
      match solve k (rest.map pivot.eliminate) with
      | none => none
      | some xs => some (backSubstitute pivot xs :: xs)

/-- The equation of the page with this PID (R147): column `PID - 1` of the generator, rows `0..MS-1`. -/
def pageEquation (p : Config.Params) (ms : Nat) (page : Nat × List Byte) : Equation :=
  ⟨(List.range ms).map fun i => hasG p i (page.1 - 1), page.2⟩

/-- `HasSolve(MS, pages)` (R147): the cleartext, symbol `i` of every row being its bytes `53·i` to `53·i + 52`. -/
def hasSolve (p : Config.Params) (ms : Nat) (pages : List (Nat × List Byte)) : Option (List Byte) :=
  (solve ms (pages.map (pageEquation p ms))).map List.flatten

/-! ### Slots (R56) -/

/-- `SLOT[mid]`, for a MID 1 to 31; `none` is EMPTY. -/
def slotOf (s : State) (mid : Nat) : Option HasGroup := (s.hasSlots[mid - 1]?).getD none

/-- `SLOT[mid] <- g`. -/
def setSlot (mid : Nat) (g : Option HasGroup) (s : State) : State :=
  { s with hasSlots := s.hasSlots.setIfInBounds (mid - 1) g }

/-- `pages[pid] <- y`, PIDs strictly rising; a PID already held keeps its page (R150). -/
def insertPage (pid : Nat) (y : List Byte) : List (Nat × List Byte) → List (Nat × List Byte)
  | [] => [(pid, y)]
  | (q, z) :: ps =>
    if pid < q then (pid, y) :: (q, z) :: ps
    else if pid = q then (q, z) :: ps
    else (q, z) :: insertPage pid y ps

/-! ### Records (R154) -/

/-- `HasRec(code)` (R154), with its MSGID, AUX and replaced MS. -/
def hasRecord (s : State) (op : HasOperand) (code : RecCode) (msgid aux oldMs : Nat) : Record where
  stage := .has
  kind := .none
  code := code
  errmap := if code = .rsFail then 8 else 0
  prn := op.prn.setWidth 32
  week := s.ctxWeek
  tow := s.ctxTow
  aux := BitVec.ofNat 32 aux
  msgid := BitVec.ofNat 16 msgid
  ext := BitVec.ofNat 32 (oldMs % 256 + 65536 * op.ms)
  body := []

/-! ### HAS.PAGE (R146) -/

/-- The slot's group that the page joins (R150): a differing MS replaces the group, with a record. -/
def openGroup (op : HasOperand) (s : State) : State × HasGroup :=
  match slotOf s op.mid with
  | none => (s, ⟨op.ms, []⟩)
  | some g =>
    if g.ms ≠ op.ms then (emit (hasRecord s op .msMismatch op.mid op.pid g.ms) s, ⟨op.ms, []⟩)
    else (s, g)

/-- Completion (R151): the group is decoded at once. -/
def completeGroup (op : HasOperand) (g : HasGroup) (s : State) : State :=
  match hasSolve s.params op.ms g.pages with
  | some clear =>
    { emit (hasRecord s op .hasDone op.mid (Config.hasPageBytes * op.ms) 0)
        { s with mem := s.mem.writeBytes s.hasDst.toNat clear } with hasDone := true }
  | none => { emit (hasRecord s op .rsFail op.mid 0 0) s with hasFail := true }

/-- A valid page `y` joins its group (R146, R150, R151). -/
def offerPage (op : HasOperand) (y : List Byte) (s : State) : State :=
  let t := (openGroup op s).1
  let g : HasGroup := { (openGroup op s).2 with pages := insertPage op.pid y (openGroup op s).2.pages }
  if g.pages.length = op.ms then setRes 0 (setSlot op.mid none (completeGroup op g t))
  else setRes g.pages.length (setSlot op.mid (some g) t)

/-- A page outside the ranges of R149: one record, RES 0, no slot changes. -/
def rejectPage (op : HasOperand) (code : RecCode) (msgid : Nat) (s : State) : State :=
  setRes 0 (emit (hasRecord s op code msgid op.pid 0) s)

/-- The pseudocode of HAS.PAGE (R146) on its unpacked operand: the payload is read before the cleartext is written
(R66). -/
def pageCommand (op : HasOperand) (s : State) : Except Cause State :=
  if s.arg0.toNat + 53 > Config.dmemSize then .error .addr
  else if 1 ≤ op.ms ∧ op.ms ≤ 32 ∧ s.hasDst.toNat + 53 * op.ms > Config.dmemSize then .error .addr
  else if op.pid = 0 then .ok (rejectPage op .badPid op.mid s)
  else if op.mid = 0 then .ok (rejectPage op .badMid 0 s)
  else if op.ms = 0 ∨ op.ms > 32 then .ok (rejectPage op .badMs op.mid s)
  else .ok (offerPage op (s.mem.readBytes s.arg0.toNat 53) s)

/-- `HAS.PAGE` (R146). -/
def execHasPage (s : State) : Host.Outcome State Fault Refusal :=
  finish .hasPage s (pageCommand (hasOperand s.arg1) s)

/-- `HAS.CLR` (R155). -/
def execHasClr (s : State) : Host.Outcome State Fault Refusal :=
  finish .hasClr s (.ok (setRes 0 { s with hasSlots := Vector.replicate 31 none }))

end Sys2Proof.Machine
end

