-- ==== Sys2Proof/Machine/Sfa.lean ====
section
/-! DEFINITION. The L6 subframe assembler (44_l6_subframe.md). -/

namespace Sys2Proof.Machine

open Sys2Proof

/-- The fields of an L6 frame that the assembler uses (R220). -/
structure L6Header where
  preamble : Nat
  prn : Byte
  mtid : Byte
  vendor : BitVec 3
  sfi : Bool
deriving DecidableEq, Repr

/-- The fields of R220. -/
def l6Header (f : List Byte) : L6Header where
  preamble := be32 f 0
  prn := byteAt f 4
  mtid := byteAt f 5
  vendor := (byteAt f 5).extractLsb' 5 3
  sfi := (byteAt f 5).getLsbD 0

/-- `PutDP(F, k)` (R222): frame bits 49 to 1743 to subframe-buffer bits `1695·k ..`. -/
def putDataPart (f : List Byte) (base k : Nat) (m : Memory) : Memory :=
  m.writeBits base (Config.dataPartBits * k) (fun i => streamBit f (49 + i)) Config.dataPartBits

/-- A subframe record (R229). -/
def sfRecord (s : State) (code : RecCode) (prn : Byte) (msgid : Byte) (aux ext : Nat) : Record where
  stage := .sfa
  kind := .none
  code := code
  errmap := 0
  prn := prn.setWidth 32
  week := s.ctxWeek
  tow := s.ctxTow
  aux := BitVec.ofNat 32 aux
  msgid := msgid.setWidth 16
  ext := BitVec.ofNat 32 ext
  body := []

/-- `N ∈ 1..4`: a subframe is open and not complete. -/
def sfOpen (s : State) : Bool := decide (1 ≤ s.sfaN) && decide (s.sfaN ≤ 4)

/-- A frame with SFI = 1 starts a subframe (R225). -/
def startSubframe (f : List Byte) (h : L6Header) (s : State) : State :=
  let t := if sfOpen s then
      emit (sfRecord s .sfFlush s.sfaPrn h.mtid (Config.dataPartBits * s.sfaN) s.sfaN) s
    else s
  { t with
    mem := putDataPart f t.sfaBase.toNat 0
      (t.mem.writeBytes t.sfaBase.toNat (List.replicate Config.sfBytes 0))
    sfaN := 1
    sfaPrn := h.prn
    sfaVendor := h.vendor }

/-- The next data part of the open subframe; the fifth completes it (R221, R224). -/
def appendDataPart (f : List Byte) (h : L6Header) (s : State) : State :=
  let t := { s with mem := putDataPart f s.sfaBase.toNat s.sfaN s.mem, sfaN := s.sfaN + 1 }
  if t.sfaN = 5 then { emit (sfRecord t .sfComplete t.sfaPrn h.mtid 8475 5) t with sfDone := true } else t

/-- Another satellite's or vendor's frame breaks the chain (R226). -/
def abortSubframe (h : L6Header) (s : State) : State :=
  { emit (sfRecord s .sfAbort s.sfaPrn h.mtid (Config.dataPartBits * s.sfaN) (s.sfaN + 256 * h.prn.toNat)) s with
    sfaN := 0 }

/-- What a frame does to the assembler (R221, R223 to R227), before RES is written. -/
def assemble (f : List Byte) (s : State) : State :=
  let h := l6Header f
  if h.preamble ≠ 0x1ACFFC1D then emit (sfRecord s .sfBadPre 0 0 h.preamble 0) s
  else if h.sfi then startSubframe f h s
  else if sfOpen s then
    if h.prn = s.sfaPrn ∧ h.vendor = s.sfaVendor then appendDataPart f h s else abortSubframe h s
  else emit (sfRecord s .sfOrphan h.prn h.mtid 0 s.sfaN) s

/-- The pseudocode of SFA.PUSH (R221): the frame is read whole before the buffer is written (R66). -/
def pushFrame (s : State) : Except Cause State :=
  if s.arg0.toNat + 250 > Config.dmemSize ∨ s.sfaBase.toNat + Config.sfBytes > Config.dmemSize then .error .addr
  else
    let t := assemble (s.mem.readBytes s.arg0.toNat 250) s
    .ok (setRes t.sfaN t)

/-- `SFA.PUSH` (R221). -/
def execSfaPush (s : State) : Host.Outcome State Fault Refusal := finish .sfaPush s (pushFrame s)

/-- `SFA.CLR` (R228). -/
def execSfaClr (s : State) : Host.Outcome State Fault Refusal :=
  finish .sfaClr s (.ok (setRes 0 { s with sfaN := 0, sfaPrn := 0, sfaVendor := 0 }))

end Sys2Proof.Machine
end

