-- ==== Sys2Proof/Machine/Dispatch.lean ====
section
/-! DEFINITION. One arm per command of R83, each one call of its meaning. -/

namespace Sys2Proof.Machine

open Sys2Proof

/-- The effect of a command (R83). -/
def exec (i : Instr) (s : State) : Host.Outcome State Fault Refusal :=
  match i with
  | .nop => Sys2Proof.Machine.execNop s
  | .srst => Sys2Proof.Machine.execSrst s
  | .bcRdu n => Sys2Proof.Machine.execBcRdu n s
  | .bcRds n => Sys2Proof.Machine.execBcRds n s
  | .bcPeek n => Sys2Proof.Machine.execBcPeek n s
  | .bcAdv m => Sys2Proof.Machine.execBcAdv m s
  | .bcRem => Sys2Proof.Machine.execBcRem s
  | .bwWr n => Sys2Proof.Machine.execBwWr n s
  | .bwAlign => Sys2Proof.Machine.execBwAlign s
  | .crcInit => Sys2Proof.Machine.execCrcInit s
  | .crcByte b => Sys2Proof.Machine.execCrcByte b s
  | .crcMem => Sys2Proof.Machine.execCrcMem s
  | .crcChk => Sys2Proof.Machine.execCrcChk s
  | .rtcmEnc => Sys2Proof.Machine.execRtcmEnc s
  | .gfMul => Sys2Proof.Machine.execGfMul s
  | .gfInv => Sys2Proof.Machine.execGfInv s
  | .hasPage => Sys2Proof.Machine.execHasPage s
  | .hasClr => Sys2Proof.Machine.execHasClr s
  | .dmxByte b => Sys2Proof.Machine.execDmxByte b s
  | .dmxFeed => Sys2Proof.Machine.execDmxFeed s
  | .dmxEos => Sys2Proof.Machine.execDmxEos s
  | .recPop => Sys2Proof.Machine.execRecPop s
  | .sfaPush => Sys2Proof.Machine.execSfaPush s
  | .sfaClr => Sys2Proof.Machine.execSfaClr s

end Sys2Proof.Machine
end

