-- ==== Sys2Proof/Machine/Command.lean ====
section
/-! DEFINITION. A command word written to CMD (R22, R86) and the block's three inputs (R270). -/

namespace Sys2Proof.Machine

open Sys2Proof

/-- The CSR index of CMD (R20). -/
def cmdIndex : BitVec 6 := 0x01

/-- The start of every command: EMITTED is 0 (R178). -/
def beginCommand (s : State) : State := { s with emitted := 0 }

/-- A host write of `w` to CMD executes command word `w` to completion (R22); a word that is no command ends in its
command error (R85, R86). -/
def runCommand (w : Word) (s : State) : Host.Outcome State Fault Refusal :=
  match decode w with
  | .ok i => exec i (beginCommand s)
  | .error e => .next (raiseCmdError (decodeCause e) w (beginCommand s))

/-- One host access (R270); the data of a read joins `busOut` (R271, log entry 2). -/
def performAccess (a : BusAccess) (s : State) : Host.Outcome State Fault Refusal :=
  match a with
  | .csrRead i => .next { readEffect i s with busOut := s.busOut ++ [csrValue i s] }
  | .csrWrite i v => if i = cmdIndex then runCommand v s else .next (csrStore i v s)
  | .reset => .next (powerOnReset s)

/-- The next host access, taken from the bus (R67, log entry 1). -/
def nextAccess (s : State) : Option (BusAccess × State) :=
  match s.bus with
  | [] => none
  | a :: rest => some (a, { s with bus := rest })

/-- The host access that runs the command word in the low `nbits` bits of `w` (R22). -/
def commandAccess (nbits w : Nat) : BusAccess := .csrWrite cmdIndex (BitVec.ofNat 32 (w % 2 ^ nbits))

end Sys2Proof.Machine
end

