-- ==== Sys2Proof/Machine/Step.lean ====
section
/-! DEFINITION. One step of the machine is one host access (R67, R270); with none to come the block is idle (R269,
R282). -/

namespace Sys2Proof.Machine

open Sys2Proof

/-- One step: the oldest host access takes effect. DESIGN CHOICE of the form: log entry 1; safe. -/
def step (s : State) : Host.Outcome State Fault Refusal :=
  match nextAccess s with
  | none => .next s
  | some (a, t) => performAccess a t

/-- The state in which the host's next access writes this command word to CMD (log entry 3). -/
def State.withFetchWord (s : State) (nbits w : Nat) : State :=
  { s with bus := commandAccess nbits w :: s.bus }

end Sys2Proof.Machine
end

