-- ==== Sys2Proof/Safety.lean ====
section
/-! DEFINITION. The terms the claims use: the invariant of the block, what a reset leaves, the opcode table and the
encodings as numbers, and the spec's own formulas for stream bits, written without the model's helpers. -/

namespace Sys2Proof.Safety

open Sys2Proof Sys2Proof.Machine

/-! ### The invariant -/

/-- A collecting slot (R56): 1 to 32 pages wanted, fewer held, PIDs 1 to 255 and distinct, 53 bytes each. -/
structure GroupOk (g : HasGroup) : Prop where
  msRange : 1 ≤ g.ms ∧ g.ms ≤ Config.hasMaxMs
  fewer : g.pages.length < g.ms
  rising : g.pages.Pairwise fun p q => p.1 < q.1
  pageOk : ∀ p ∈ g.pages, 1 ≤ p.1 ∧ p.1 ≤ 255 ∧ p.2.length = Config.hasPageBytes

/-- An entry of the best-satellite table (R54, R180, R195): an error-free Allystar record of the open tick. -/
structure EntryOk (s : State) (r : Record) : Prop where
  kind : r.kind = .allystar
  clean : r.errmap = 0
  tick : r.tow = s.bssTow
  bodyLen : r.body.length ≤ Config.dmxMaxLen

/-- What holds of the block between two host accesses. -/
structure Inv (s : State) : Prop where
  /-- DMEM is in its canonical form (R60). -/
  memWf : s.mem.wf = true
  /-- `BC_POS <= BC_LEN` (R33). -/
  cursor : s.bcPos.toNat ≤ s.bcLen.toNat
  /-- `BW_POS <= BW_CAP` (R36). -/
  sink : s.bwPos.toNat ≤ s.bwCap.toNat
  /-- The first error is latched with its cause, and nothing is latched without one (R23 to R25). -/
  latch : (s.err = false → s.errCause = .none ∧ s.errCmd = 0) ∧ (s.err = true → s.errCause ≠ .none)
  /-- What is pending may still become a frame (R175). -/
  pendingHeld : s.pending = [] ∨ classify s.params.crc24qInit s.dmxCfg.kind s.pending = .needMore
  /-- `|P| < DMX_MAXLEN` (R175). -/
  pendingShort : s.pending.length < Config.dmxMaxLen
  /-- The queue holds at most RECQ_DEPTH records (R55), each with a body of at most DMX_MAXLEN bytes (R177). -/
  queueDepth : s.queue.length ≤ Config.recqDepth
  bodies : ∀ r ∈ s.queue, r.body.length ≤ Config.dmxMaxLen
  /-- The best-satellite table (R54). -/
  tableSize : s.bssTable.length ≤ Config.bssSlots
  tablePrns : (s.bssTable.map (·.prn)).Nodup
  entries : ∀ r ∈ s.bssTable, EntryOk s r
  tableKind : s.bssTable ≠ [] → s.dmxCfg.kind = .allystar ∧ s.dmxCfg.bssEn = true
  /-- The HAS slots (R56). -/
  slots : ∀ g, some g ∈ s.hasSlots.toList → GroupOk g
  /-- `N ∈ 0..5` (R57). -/
  dataParts : s.sfaN ≤ 5
  /-- `REC_INFO[31:23]` reads 0 (R43). -/
  recInfo : s.recRegs.info.toNat < 2 ^ 23

/-! ### Reset -/

/-- The reset column of R20, for the indices that have one (MEM_DATA has none). -/
def resetColumn (p : Config.Params) (i : BitVec 6) : Word :=
  if i = 0x00 then 0x514C3607 else if i = 0x18 then p.crc24qInit.setWidth 32 else 0

/-- The reset action of R280, but for DMEM. -/
structure IsReset (s : State) : Prop where
  csrs : ∀ i, i ≠ 0x3D → csrValue i s = resetColumn s.params i
  pending : s.pending = []
  table : s.bssTable = [] ∧ s.bssTow = 0
  queue : s.queue = []
  slots : ∀ mid, 1 ≤ mid → mid ≤ 31 → slotOf s mid = none
  assembler : s.sfaN = 0 ∧ s.sfaPrn = 0 ∧ s.sfaVendor = 0
  interrupt : irq s = false

/-! ### What the host reads: the numbers of the spec's tables -/

/-- The codes of ERRCAUSE (R252). -/
def causeNumber : Cause → Nat
  | .none => 0
  | .illegalOpcode => 1
  | .reservedField => 2
  | .badOperand => 3
  | .short => 4
  | .wfull => 5
  | .qempty => 6
  | .addr => 7

/-- The numbers of the framing kinds (R171). -/
def kindNumber : Kind → Nat
  | .none => 0
  | .rtcm3 => 1
  | .allystar => 2
  | .novatel => 3
  | .sbf => 4
  | .ubx => 5
  | .rawL6 => 6
  | .rawL1s => 7
  | .rawE6b => 8
  | .rawB2b => 9

/-- The numbers of the stages (R177). -/
def stageNumber : Stage → Nat
  | .dmx => 1
  | .sfa => 2
  | .has => 3

/-- The record codes (R254). -/
def codeNumber : RecCode → Nat
  | .frame => 0x01
  | .checksumFail => 0x02
  | .lengthFail => 0x03
  | .sfComplete => 0x10
  | .sfFlush => 0x11
  | .sfAbort => 0x12
  | .sfOrphan => 0x13
  | .sfBadPre => 0x14
  | .hasDone => 0x20
  | .rsFail => 0x21
  | .msMismatch => 0x22
  | .badPid => 0x23
  | .badMid => 0x24
  | .badMs => 0x25

/-- STATUS bit by bit (R23); BUSY and the bits above it read 0. -/
def statusNumber (s : State) : Nat :=
  s.err.toNat + 2 * (decide (0 < s.queue.length)).toNat + 4 * s.recqOvf.toNat + 8 * s.syncLost.toNat +
    16 * s.sfDone.toNat + 32 * s.hasDone.toNat + 64 * s.hasFail.toNat

/-- What each CSR index reads as (R20 to R52), as a number, but for HAS_LIVE. -/
def csrNumber (s : State) : Nat → Nat
  | 0x00 => 0x514C3607
  | 0x02 => statusNumber s
  | 0x03 => causeNumber s.errCause
  | 0x04 => s.errCmd.toNat
  | 0x05 => s.irqEn.toNat
  | 0x06 => s.inv.toNat + 2 * s.eq.toNat
  | 0x08 => s.arg0.toNat
  | 0x09 => s.arg1.toNat
  | 0x0A => s.arg2.toNat
  | 0x0C => s.res.toNat % 2 ^ 32
  | 0x0D => s.res.toNat / 2 ^ 32
  | 0x10 => s.bcBase.toNat
  | 0x11 => s.bcLen.toNat
  | 0x12 => s.bcPos.toNat
  | 0x14 => s.bwBase.toNat
  | 0x15 => s.bwCap.toNat
  | 0x16 => s.bwPos.toNat
  | 0x18 => s.crc.toNat
  | 0x20 => kindNumber s.dmxCfg.kind + 16 * s.dmxCfg.bssEn.toNat + 32 * s.dmxCfg.pinEn.toNat +
      65536 * s.dmxCfg.pinPrn.toNat
  | 0x21 => s.pending.length + 65536 * s.bssTable.length
  | 0x22 => s.cntOk.toNat
  | 0x23 => s.cntErr.toNat
  | 0x24 => s.cntSkip.toNat
  | 0x25 => s.cntDrop.toNat
  | 0x26 => s.ctxWeek.toNat
  | 0x27 => s.ctxTow.toNat
  | 0x28 => s.recRegs.info.toNat
  | 0x29 => s.recRegs.prn.toNat
  | 0x2A => s.recRegs.week.toNat
  | 0x2B => s.recRegs.tow.toNat
  | 0x2C => s.recRegs.aux.toNat
  | 0x2D => s.recRegs.msgid.toNat
  | 0x2E => s.recRegs.len.toNat
  | 0x2F => s.recRegs.ext.toNat
  | 0x30 => s.sfaBase.toNat
  | 0x31 => s.sfaN + 256 * s.sfaPrn.toNat + 65536 * s.sfaVendor.toNat
  | 0x32 => 1695 * s.sfaN
  | 0x34 => s.hasDst.toNat
  | 0x38 => s.queue.length
  | 0x39 => s.bssTow.toNat
  | 0x3C => s.memAddr.toNat
  | 0x3D => (s.mem.readByte s.memAddr.toNat).toNat
  | _ => 0

/-! ### Decoding -/

/-- R83 with the format masks of R86: the opcode and the reserved bits of each row. -/
def rowMasks : List (Nat × Word) :=
  [(0x00, 0x00FFFFFF), (0x01, 0x00FFFFFF), (0x10, 0x00FFFF80), (0x11, 0x00FFFF80), (0x12, 0x00FFFF80),
    (0x13, 0x00FF0000), (0x14, 0x00FFFFFF), (0x18, 0x00FFFF80), (0x19, 0x00FFFFFF), (0x20, 0x00FFFFFF),
    (0x21, 0x00FFFF00), (0x22, 0x00FFFFFF)] ++
  [(0x23, 0x00FFFFFF), (0x28, 0x00FFFFFF), (0x30, 0x00FFFFFF), (0x31, 0x00FFFFFF), (0x32, 0x00FFFFFF),
    (0x33, 0x00FFFFFF), (0x38, 0x00FFFF00), (0x39, 0x00FFFFFF), (0x3A, 0x00FFFFFF), (0x3B, 0x00FFFFFF),
    (0x40, 0x00FFFFFF), (0x41, 0x00FFFFFF)]

/-- A command's encoding: one word, `OP << 24` with its immediate (R86, R88), and RESERVED_FIELD for every word with
its OP and a bit of its format's mask set (R85). -/
def EncodedAs (op : Nat) (mask : Word) (imm : Nat) (i : Instr) : Prop :=
  (∀ w : Word, decode w = .ok i ↔ w.toNat = op * 2 ^ 24 + imm) ∧
    ∀ w : Word, w.toNat / 2 ^ 24 = op → w &&& mask ≠ 0 → decode w = .error .reservedField

/-! ### The spec's formulas -/

/-- `ViewBit(k)` as R100 writes it. -/
def viewBit (m : Memory) (base k : Nat) : Nat := (m.readByte (base + k / 8)).toNat >>> (7 - k % 8) % 2

/-- `ReadBits(p, n)` as R100 writes it. -/
def readBits (m : Memory) (base p n : Nat) : Nat :=
  ((List.range n).map fun i => viewBit m base (p + i) * 2 ^ (n - 1 - i)).sum

/-- CRC-24Q of one byte, one message bit at a time: the polynomial division that the table of R120 speeds up. -/
def crcBits (c : BitVec 24) (b : Byte) : BitVec 24 :=
  (List.range 8).foldl (fun (r : BitVec 24) (i : Nat) =>
    (r <<< 1) ^^^ (if r.getLsbD 23 != b.getLsbD (7 - i) then 0x864CFB#24 else 0#24)) c

/-- The whole of `Scan()` on a state (R174). -/
def scanAll (s : State) : State := scan s.pending.length s

/-! ### Framing, kind by kind (R181 to R190), in numbers -/

/-- Byte `i` of a byte sequence as a number. -/
def num (p : List Byte) (i : Nat) : Nat := (p.getD i 0).toNat

/-- `LE16(p[a..])` and `BE16(p[a..])` (R10). -/
def numLe (p : List Byte) (a : Nat) : Nat := num p a + 256 * num p (a + 1)
def numBe (p : List Byte) (a : Nat) : Nat := 256 * num p a + num p (a + 1)

/-- `Fletcher8` (R182) in closed form: the sum, and the sum of the sums. -/
def fletcherA (bs : List Byte) : Nat := (bs.map BitVec.toNat).sum % 256
def fletcherB (bs : List Byte) : Nat := ((List.range bs.length).map fun i => (bs.length - i) * num bs i).sum % 256

/-- `CRC32R` (R183) in numbers, with one of its eight turns per byte. -/
def crc32Turn (r : Nat) : Nat := (r / 2) ^^^ (if r % 2 = 1 then 0xEDB88320 else 0)
def crc32Sum (bs : List Byte) : Nat := bs.foldl (fun c x => crc32Turn^[8] (c ^^^ x.toNat)) 0

/-- `CRC16` (R184) in numbers, with one of its eight turns per byte. -/
def crc16Turn (r : Nat) : Nat := ((2 * r) ^^^ (if 0x8000 ≤ r then 0x1021 else 0)) % 65536
def crc16Sum (bs : List Byte) : Nat := bs.foldl (fun c x => crc16Turn^[8] (c ^^^ (256 * x.toNat))) 0

/-- The sync pattern of a kind that has one (R171, R181 to R186). -/
def syncOf : Kind → List Byte
  | .none => []
  | .rtcm3 => [0xD3]
  | .allystar => [0xF1, 0xD9, 0x02, 0x10]
  | .novatel => [0xAA, 0x44, 0x12]
  | .sbf => [0x24, 0x40]
  | .ubx => [0xB5, 0x62]
  | .rawL6 => [0x1A, 0xCF, 0xFC, 0x1D]
  | .rawL1s => []
  | .rawE6b => []
  | .rawB2b => []

/-- `SyncMatch` (R173): bytes that differ from the pattern are NOSYNC, a proper prefix of it is NEED_MORE. -/
def SyncRule (init : BitVec 24) (p : List Byte) (k : Kind) : Prop :=
  (p.take (syncOf k).length ≠ (syncOf k).take p.length → classify init k p = .noSync) ∧
    (p.length < (syncOf k).length → p = (syncOf k).take p.length → classify init k p = .needMore)

/-- The last part of a checked kind's rule: the whole frame has `n` bytes and its record is `f`. -/
def WholeFrame (out : Machine.Class) (p : List Byte) (n : Nat) (checks : Prop) (f : FrameFields) : Prop :=
  (p.length < n → out = .needMore) ∧ (n ≤ p.length → ¬ checks → out = .err .checksumFail 0) ∧
    (n ≤ p.length → checks → out = .ok n f)

/-- RTCM3 after its sync byte (R127, R181), CRC-24Q being the bit-by-bit division. -/
def RtcmRule (init : BitVec 24) (p : List Byte) : Prop :=
  ∀ len out, len = 256 * (num p 1 % 4) + num p 2 → out = classify init .rtcm3 p →
    (p.length = 1 → out = .needMore) ∧ (2 ≤ p.length → 4 ≤ num p 1 → out = .noSync) ∧
    (num p 1 < 4 → (p.length = 2 → out = .needMore) ∧ (3 ≤ p.length → len = 0 → out = .err .lengthFail 1) ∧
      (3 ≤ p.length → 1 ≤ len → WholeFrame out p (len + 6)
        (((p.take (len + 3)).foldl crcBits init).toNat = 256 * numBe p (len + 3) + num p (len + 5))
        ⟨0, 0, none, 0, BitVec.ofNat 16 (if len = 1 then 0xFFFF else 16 * num p 3 + num p 4 / 16), 0,
          (p.drop 3).take len⟩))

/-- ERRMAP of an Allystar frame (R189, R191), from DLEN and the flags. -/
def allystarMap (dlen flags : Nat) : Nat :=
  (if dlen = 65 then 0 else 4) + 8 * (flags % 2) + 16 * (flags / 2 % 2) + 32 * (flags / 4 % 2) +
    (if flags / 8 = 0 then 0 else 64)

/-- ALLYSTAR after its sync pattern (R182, R189). -/
def AllystarRule (init : BitVec 24) (p : List Byte) : Prop :=
  ∀ out region, out = classify init .allystar p → region = (p.drop 2).take 268 →
    (p.length < 6 → out = .needMore) ∧ (6 ≤ p.length → numLe p 4 ≠ 264 → out = .err .lengthFail 1) ∧
    (6 ≤ p.length → numLe p 4 = 264 → WholeFrame out p 272
      (num p 270 = fletcherA region ∧ num p 271 = fletcherB region)
      ⟨BitVec.ofNat 7 (allystarMap (num p 9) (num p 17)), BitVec.ofInt 32 ((numLe p 6 : Int) - 700),
        some (BitVec.ofNat 16 (numBe p 10), BitVec.ofNat 32 (65536 * numBe p 12 + numBe p 14)),
        BitVec.ofNat 32 (num p 16 + 256 * num p 8 + 65536 * num p 17 + 16777216 * num p 9), 0,
        BitVec.ofNat 32 (numBe p 268), (p.drop 18).take 250⟩)

/-- NOVATEL after its sync pattern (R183). -/
def NovatelRule (init : BitVec 24) (p : List Byte) : Prop :=
  ∀ h m out, h = num p 3 → m = numLe p 8 → out = classify init .novatel p →
    (p.length = 3 → out = .needMore) ∧ (4 ≤ p.length → h < 10 → out = .err .lengthFail 1) ∧
    (4 ≤ p.length → 10 ≤ h → (p.length < 10 → out = .needMore) ∧
      (10 ≤ p.length → m = 0 ∨ 2048 < h + m + 4 → out = .err .lengthFail 1) ∧
      (10 ≤ p.length → 1 ≤ m → h + m + 4 ≤ 2048 → WholeFrame out p (h + m + 4)
        (crc32Sum (p.take (h + m)) = numLe p (h + m) + 65536 * numLe p (h + m + 2))
        ⟨0, 0, none, 0, BitVec.ofNat 16 (numLe p 4), BitVec.ofNat 32 h, (p.drop h).take m⟩))

/-- SBF after its sync pattern (R184). -/
def SbfRule (init : BitVec 24) (p : List Byte) : Prop :=
  ∀ n out, n = numLe p 6 → out = classify init .sbf p →
    (p.length < 8 → out = .needMore) ∧
    (8 ≤ p.length → n < 8 ∨ n % 4 ≠ 0 ∨ 2048 < n → out = .err .lengthFail 1) ∧
    (8 ≤ p.length → 8 ≤ n → n % 4 = 0 → n ≤ 2048 → WholeFrame out p n
      (crc16Sum ((p.drop 4).take (n - 4)) = numLe p 2)
      ⟨0, 0, none, 0, BitVec.ofNat 16 (numLe p 4 % 8192), BitVec.ofNat 32 (numLe p 4 / 8192),
        (p.drop 8).take (n - 8)⟩)

/-- UBX after its sync pattern (R185). -/
def UbxRule (init : BitVec 24) (p : List Byte) : Prop :=
  ∀ n out region, n = numLe p 4 → out = classify init .ubx p → region = (p.drop 2).take (n + 4) →
    (p.length < 6 → out = .needMore) ∧ (6 ≤ p.length → n = 0 ∨ 2048 < n + 8 → out = .err .lengthFail 1) ∧
    (6 ≤ p.length → 1 ≤ n → n + 8 ≤ 2048 → WholeFrame out p (n + 8)
      (num p (n + 6) = fletcherA region ∧ num p (n + 7) = fletcherB region)
      ⟨0, 0, none, 0, BitVec.ofNat 16 (numBe p 2), 0, (p.drop 6).take n⟩)

/-- RAW_L6 after its sync pattern (R186): no check. -/
def RawL6Rule (init : BitVec 24) (p : List Byte) : Prop :=
  WholeFrame (classify init .rawL6 p) p 250 True
    ⟨0, BitVec.ofNat 32 (num p 4), none, BitVec.ofNat 32 (num p 5 + 256 * (num p 6 / 128)), 0, 0, p.take 250⟩

/-- A raw kind of `t` bytes with `bits` payload bits (R187): no sync and no check. -/
def RawFixedRule (init : BitVec 24) (p : List Byte) (k : Kind) (t bits : Nat) : Prop :=
  WholeFrame (classify init k p) p t True
    ⟨0, BitVec.ofNat 32 (num p 0), none, BitVec.ofNat 32 bits, 0, 0, (p.drop 1).take (t - 1)⟩

/-! ### Erasure decoding and the operands of commands -/

/-- XOR of a list of bytes: the ⊕-sum of R145 and R147. -/
def xorSum (bs : List Byte) : Byte := bs.foldl (· ^^^ ·) 0

/-- The system of R147 for byte row `r`: `Σ_i gmul(m[i], G[i][PID - 1])` over `i < MS`. -/
def pageSymbol (p : Config.Params) (ms : Nat) (m : Nat → Byte) (pid : Nat) : Byte :=
  xorSum ((List.range ms).map fun i => gmul (m i) (hasG p i (pid - 1)))

/-- `A` of R147 is nonsingular over GF(2^8): only the zero vector of `MS` symbols gives 0 in every held column. -/
def Nonsingular (p : Config.Params) (ms : Nat) (pids : List Nat) : Prop :=
  ∀ m : Nat → Byte, (∀ pid ∈ pids, pageSymbol p ms m pid = 0) → ∀ i, i < ms → m i = 0

/-- The byte addresses that bits `p .. p + n - 1` of the stream from byte `base` touch (R100, R108). -/
def touched (base p n a : Nat) : Prop := 0 < n ∧ base + p / 8 ≤ a ∧ a ≤ base + (p + n - 1) / 8

/-- `HasRec(code)` field by field (R154); `prn` is ARG1[31:24]. -/
def hasRec (s : State) (code : RecCode) (errmap : BitVec 7) (msgid aux ext : Nat) : Record :=
  ⟨.has, .none, code, errmap, BitVec.ofNat 32 (s.arg1.toNat / 2 ^ 24), s.ctxWeek, s.ctxTow, BitVec.ofNat 32 aux,
    BitVec.ofNat 16 msgid, BitVec.ofNat 32 ext, []⟩

/-- `SfRec(code)` field by field (R229). -/
def sfRec (s : State) (code : RecCode) (prn msgid aux ext : Nat) : Record :=
  ⟨.sfa, .none, code, 0, BitVec.ofNat 32 prn, s.ctxWeek, s.ctxTow, BitVec.ofNat 32 aux, BitVec.ofNat 16 msgid,
    BitVec.ofNat 32 ext, []⟩

/-- The operands of HAS.PAGE as fields of ARG1 (R84): PID, MID, MS. -/
def pidOf (s : State) : Nat := s.arg1.toNat % 256
def midOf (s : State) : Nat := s.arg1.toNat / 256 % 32
def msOf (s : State) : Nat := s.arg1.toNat / 65536 % 64

/-- A HAS.PAGE that names a page in range and passes both address checks (R146, R149). -/
def ValidPage (s : State) : Prop :=
  s.arg0.toNat + 53 ≤ Config.dmemSize ∧ s.hasDst.toNat + 53 * msOf s ≤ Config.dmemSize ∧
    1 ≤ pidOf s ∧ 1 ≤ midOf s ∧ 1 ≤ msOf s ∧ msOf s ≤ 32

/-- The pages that the slot of the page's MID holds for the same MS (R150): none when the slot is EMPTY. -/
def HeldPages (s : State) (ps : List (Nat × List Byte)) : Prop :=
  (slotOf s (midOf s) = none ∧ ps = []) ∨ slotOf s (midOf s) = some ⟨msOf s, ps⟩

/-- The L6 frame that SFA.PUSH is offered (R221), and its fields (R220). -/
def l6Frame (s : State) : List Byte := s.mem.readBytes s.arg0.toNat 250
def framePrn (s : State) : Nat := (s.mem.readByte (s.arg0.toNat + 4)).toNat
def frameMtid (s : State) : Nat := (s.mem.readByte (s.arg0.toNat + 5)).toNat

/-- The frame's first 32 bits (R220). -/
def framePreamble (s : State) : Nat := readBits s.mem s.arg0.toNat 0 32

/-- SFA.PUSH passes its address checks (R221). -/
def FrameInRange (s : State) : Prop :=
  s.arg0.toNat + 250 ≤ Config.dmemSize ∧ s.sfaBase.toNat + Config.sfBytes ≤ Config.dmemSize

/-- The store of `bs` at `a` and of nothing else, seen through reads. -/
def StoredAt (m m' : Memory) (a : Nat) (bs : List Byte) : Prop :=
  ∀ b, m'.readByte b = if a ≤ b ∧ b < a + bs.length then bs.getD (b - a) 0 else m.readByte b

end Sys2Proof.Safety
end

