-- ==== Sys2Proof/Certificates/Slice0/Obligations.lean ====
section
/-! DEFINITION. The statements for the provers. Each docstring names the rule of spec/ it formalises, or says what it
is derived from; log entries (notes/assumptions) are named where a clause rests on a choice of the model. -/

open Sys2Proof Sys2Proof.Machine Sys2Proof.Safety

/-! ### Encoding -/

/-- Derived from R81 and R86: the decoder gives back every command that the encoder writes. -/
def Obligations.DecodeReadsEncodedCommand : Prop :=
  ∀ i : Instr, i.wf = true → decode (encode i) = .ok i

/-- Derived from R86 ("each command has exactly one legal encoding per immediate value"). -/
def Obligations.EncodeWritesDecodedWord : Prop :=
  ∀ (w : Word) (i : Instr), decode w = .ok i → encode i = w ∧ i.wf = true

/-- Derived from R85, through a step: an unlisted opcode is ILLEGAL_OPCODE, a listed one with a reserved bit set is
RESERVED_FIELD. The host access list is the model's (log entry 1). -/
def Obligations.NonCommandWordsAreRejected : Prop :=
  ∀ (s : State) (w : Word) (rest : List BusAccess), s.bus = .csrWrite cmdIndex w :: rest →
    ((∀ row ∈ rowMasks, row.1 ≠ (w.extractLsb' 24 8).toNat) →
      step s = .next (raiseCmdError .illegalOpcode w { s with bus := rest, emitted := 0 })) ∧
    (∀ row ∈ rowMasks, row.1 = (w.extractLsb' 24 8).toNat → w &&& row.2 ≠ 0 →
      step s = .next (raiseCmdError .reservedField w { s with bus := rest, emitted := 0 }))

/-- Derived from R91: its example words. -/
def Obligations.ExampleWordsDecode : Prop :=
  [0x00000000, 0x01000000, 0x1000000C, 0x11000026, 0x12000040, 0x1300069F, 0x14000000, 0x18000018, 0x19000000,
    0x20000000, 0x210000D3, 0x22000000].map decode =
    [.nop, .srst, .bcRdu 12, .bcRds 38, .bcPeek 64, .bcAdv 1695, .bcRem, .bwWr 24, .bwAlign, .crcInit,
      .crcByte 0xD3, .crcMem].map Except.ok ∧
  [0x23000000, 0x28000000, 0x30000000, 0x31000000, 0x32000000, 0x33000000, 0x380000D3, 0x39000000, 0x3A000000,
    0x3B000000, 0x40000000, 0x41000000].map decode =
    [.crcChk, .rtcmEnc, .gfMul, .gfInv, .hasPage, .hasClr, .dmxByte 0xD3, .dmxFeed, .dmxEos, .recPop, .sfaPush,
      .sfaClr].map Except.ok ∧
  [0x02000000, 0x10000100, 0x10000041].map decode =
    [.error .illegalOpcode, .error .reservedField, .ok (.bcRdu 65)]

/-! ### Steps -/

/-- Derived from R22 and R178: a CMD write runs the command its word decodes to, with EMITTED 0, and CMD reads 0. The
host access list and the place of EMITTED are the model's (log entries 1 and 7). -/
def Obligations.StepRunsDecodedCommand : Prop :=
  ∀ (s : State) (w : Word) (i : Instr) (rest : List BusAccess), s.bus = .csrWrite cmdIndex w :: rest →
    decode w = .ok i → step s = exec i { s with bus := rest, emitted := 0 } ∧ csrValue cmdIndex s = 0

/-- Derived from R65, R67, R269 and R270: what a step does with a read, with a write to another CSR than CMD, and with
no access to make. The access list and the list of returned data are the model's (log entries 1 and 2). -/
def Obligations.StepPerformsHostAccess : Prop :=
  ∀ s : State,
    (s.bus = [] → step s = .next s) ∧
    (∀ i rest, s.bus = .csrRead i :: rest →
      step s = .next { s with
        bus := rest
        busOut := s.busOut ++ [csrValue i s]
        memAddr := if i = 0x3D then s.memAddr + 1 else s.memAddr }) ∧
    (∀ i v rest, s.bus = .csrWrite i v :: rest → i ≠ 0x01 → step s = .next (csrStore i v { s with bus := rest }))

/-- Derived from R258: no step and no command stops the block. That a step with no host access changes nothing is the
model's (log entry 1). -/
def Obligations.NoErrorStopsTheBlock : Prop :=
  (∀ s : State, ∃ t, step s = .next t) ∧ ∀ (i : Instr) (s : State), ∃ t, exec i s = .next t

/-! ### Reset -/

/-- Derived from R20, R280, R281 and R283: the machine after reset, and what the `reset` input does. The form of
DMEM_INIT is the model's (log entry 5); what is not the block's stays (log entry 11). -/
def Obligations.PowerOnResetsEverything : Prop :=
  IsReset State.reset ∧ (∀ a, State.reset.mem.readByte a = Config.dmemInit.getD a 0) ∧
  ∀ (s : State) (rest : List BusAccess), s.bus = .reset :: rest →
    ∃ t, step s = .next t ∧ IsReset t ∧ (∀ a, t.mem.readByte a = s.mem.init.getD a 0) ∧
      t.params = s.params ∧ t.mem.init = s.mem.init ∧ t.bus = rest ∧ t.busOut = s.busOut

/-- Derived from R241 and R280: SRST resets everything but DMEM. What is not the block's stays (log entry 11). -/
def Obligations.SrstResetsAllButDmem : Prop :=
  EncodedAs 0x01 0x00FFFFFF 0 .srst ∧
  ∀ s : State, ∃ t, exec .srst s = .next t ∧ IsReset t ∧ t.mem = s.mem ∧ t.params = s.params ∧ t.bus = s.bus ∧
    t.busOut = s.busOut

/-! ### Command errors, flags and the interrupt -/

/-- Derived from R251 and R252: the first error is latched, a later one sets nothing new; no other state changes. What
the host then reads: STATUS.ERR, the number of the cause, and the command word. -/
def Obligations.FirstErrorIsLatched : Prop :=
  ∀ (c : Cause) (w : Word) (s : State),
    (s.err = false → raiseCmdError c w s = { s with err := true, errCause := c, errCmd := w }) ∧
    (s.err = true → raiseCmdError c w s = s) ∧
    ((csrValue 0x02 (raiseCmdError c w s)).getLsbD 0 = true) ∧
    (s.err = false → (csrValue 0x03 (raiseCmdError c w s)).toNat = causeNumber c ∧
      csrValue 0x04 (raiseCmdError c w s) = w)

/-- Derived from R250 and R251, over all commands: a command that ends in a command error changes the latch and
nothing else, and the latched word is its own. -/
def Obligations.FailedCommandLeavesData : Prop :=
  ∀ (i : Instr) (s t : State), exec i s = .next t → s.err = false → t.err = true →
    t = { s with err := true, errCause := t.errCause, errCmd := encode i } ∧ t.errCause ≠ .none

/-- Derived from R23 and R257: a write to STATUS clears the W1C bits it names, ERR with its cause and word, and
nothing else. -/
def Obligations.StatusBitsClearByWritingOne : Prop :=
  ∀ (v : Word) (s : State), csrStore 0x02 v s =
    { s with
      err := s.err && !v.getLsbD 0
      errCause := if v.getLsbD 0 then .none else s.errCause
      errCmd := if v.getLsbD 0 then 0 else s.errCmd
      recqOvf := s.recqOvf && !v.getLsbD 2
      syncLost := s.syncLost && !v.getLsbD 3
      sfDone := s.sfDone && !v.getLsbD 4
      hasDone := s.hasDone && !v.getLsbD 5
      hasFail := s.hasFail && !v.getLsbD 6 }

/-- Derived from R23, R260 and R261: the interrupt is the OR of the enabled STATUS bits 0 to 6, bit 1 being the level of
the queue. -/
def Obligations.InterruptIsEnabledStatus : Prop :=
  ∀ s : State, irq s = true ↔
    (s.err = true ∧ s.irqEn.getLsbD 0 = true) ∨ (s.queue ≠ [] ∧ s.irqEn.getLsbD 1 = true) ∨
    (s.recqOvf = true ∧ s.irqEn.getLsbD 2 = true) ∨ (s.syncLost = true ∧ s.irqEn.getLsbD 3 = true) ∨
    (s.sfDone = true ∧ s.irqEn.getLsbD 4 = true) ∨ (s.hasDone = true ∧ s.irqEn.getLsbD 5 = true) ∨
    (s.hasFail = true ∧ s.irqEn.getLsbD 6 = true)

/-- Derived from R27, R28, R29, R31, R34, R38, R42, R44, R47 and R294: the registers that only the host writes, and the
one writer of each FLAGS bit; SRST resets them all (log entry 10). -/
def Obligations.CommandsKeepHostRegisters : Prop :=
  ∀ (i : Instr) (s t : State), exec i s = .next t → i ≠ .srst →
    (t.arg0 = s.arg0 ∧ t.arg1 = s.arg1 ∧ t.arg2 = s.arg2) ∧ (t.ctxWeek = s.ctxWeek ∧ t.ctxTow = s.ctxTow) ∧
    t.memAddr = s.memAddr ∧ t.irqEn = s.irqEn ∧ t.dmxCfg = s.dmxCfg ∧ (t.bcBase = s.bcBase ∧ t.bcLen = s.bcLen) ∧
    (t.bwBase = s.bwBase ∧ t.bwCap = s.bwCap) ∧ t.sfaBase = s.sfaBase ∧ t.hasDst = s.hasDst ∧
    t.params = s.params ∧ t.bus = s.bus ∧ t.busOut = s.busOut ∧
    ((∀ n, i ≠ .bcRds n) → t.inv = s.inv) ∧ (i ≠ .crcChk → t.eq = s.eq)

/-! ### CSR writes -/

/-- Derived from R27, R29, R31 to R37, R41, R42, R44 and R47: what a write to each plain register stores, and the
clamped positions of the view and of the sink. -/
def Obligations.RegisterWritesStoreAndClamp : Prop :=
  ∀ (v : Word) (s : State),
    (csrStore 0x11 v s = { s with bcLen := v, bcPos := BitVec.ofNat 32 (min s.bcPos.toNat v.toNat) } ∧
      csrStore 0x12 v s = { s with bcPos := BitVec.ofNat 32 (min v.toNat s.bcLen.toNat) } ∧
      csrStore 0x15 v s = { s with bwCap := v, bwPos := BitVec.ofNat 32 (min s.bwPos.toNat v.toNat) } ∧
      csrStore 0x16 v s = { s with bwPos := BitVec.ofNat 32 (min v.toNat s.bwCap.toNat) }) ∧
    (csrStore 0x08 v s = { s with arg0 := v } ∧ csrStore 0x09 v s = { s with arg1 := v } ∧
      csrStore 0x0A v s = { s with arg2 := v } ∧ csrStore 0x10 v s = { s with bcBase := v } ∧
      csrStore 0x14 v s = { s with bwBase := v } ∧ csrStore 0x30 v s = { s with sfaBase := v } ∧
      csrStore 0x34 v s = { s with hasDst := v } ∧ csrStore 0x27 v s = { s with ctxTow := v }) ∧
    (csrStore 0x22 v s = { s with cntOk := v } ∧ csrStore 0x23 v s = { s with cntErr := v } ∧
      csrStore 0x24 v s = { s with cntSkip := v } ∧ csrStore 0x25 v s = { s with cntDrop := v }) ∧
    csrStore 0x05 v s = { s with irqEn := BitVec.ofNat 7 v.toNat } ∧
    csrStore 0x18 v s = { s with crc := BitVec.ofNat 24 v.toNat } ∧
    csrStore 0x26 v s = { s with ctxWeek := BitVec.ofNat 16 v.toNat }

/-- R199, with R38's fields: what a DMX_CFG write stores, what it then reads as, and what it drops. -/
def Obligations.DmxCfgWriteKeepsLegalKind : Prop :=
  ∀ (v : Word) (s : State), ∃ c : DmxCfg,
    kindNumber c.kind = (if v.toNat % 16 ≤ 9 then v.toNat % 16 else 0) ∧ c.bssEn = v.getLsbD 4 ∧
    c.pinEn = v.getLsbD 5 ∧ c.pinPrn.toNat = v.toNat / 65536 ∧
    (c.kind = s.dmxCfg.kind → c.bssEn = s.dmxCfg.bssEn → csrStore 0x20 v s = { s with dmxCfg := c }) ∧
    (c.kind ≠ s.dmxCfg.kind ∨ c.bssEn ≠ s.dmxCfg.bssEn →
      csrStore 0x20 v s = { s with dmxCfg := c, pending := [], bssTable := [], bssTow := 0 }) ∧
    (csrValue 0x20 (csrStore 0x20 v s)).toNat =
      kindNumber c.kind + 16 * c.bssEn.toNat + 32 * c.pinEn.toNat + 65536 * c.pinPrn.toNat

/-- Derived from R50 and R51: the host memory port stores one byte and moves on, wrapping at DMEM_SIZE. -/
def Obligations.MemoryPortWritesOneByte : Prop :=
  ∀ (v : Word) (s : State), s.mem.wf = true →
    (csrStore 0x3C v s = { s with memAddr := BitVec.ofNat 13 (v.toNat % 8192) }) ∧
    (∃ m, csrStore 0x3D v s = { s with mem := m, memAddr := BitVec.ofNat 13 ((s.memAddr.toNat + 1) % 8192) } ∧
      StoredAt s.mem m s.memAddr.toNat [BitVec.ofNat 8 (v.toNat % 256)]) ∧
    csrValue 0x3D s = BitVec.ofNat 32 (s.mem.readByte s.memAddr.toNat).toNat

/-- Derived from R20 to R52: what every CSR index reads as, as a number (`csrNumber`, HAS_LIVE bit by bit), in a state
within the bounds of R39, R45 and R49; and read-only and reserved indices ignore a write. -/
def Obligations.CsrReadsShowStateAndReadOnlyKeepIt : Prop :=
  (∀ (i : Nat) (s : State), i < 64 → i ≠ 0x35 → s.pending.length < 4096 → s.bssTable.length < 64 →
    s.queue.length ≤ 8 → s.sfaN ≤ 5 → (csrValue (BitVec.ofNat 6 i) s).toNat = csrNumber s i) ∧
  (∀ (mid : Nat) (s : State), (csrValue 0x35 s).getLsbD mid = true ↔ 1 ≤ mid ∧ mid ≤ 31 ∧ slotOf s mid ≠ none) ∧
  ∀ (i : Nat) (v : Word) (s : State),
    (i ∈ [0x00, 0x03, 0x04, 0x06, 0x0C, 0x0D, 0x21, 0x28, 0x29, 0x2A, 0x2B, 0x2C, 0x2D, 0x2E, 0x2F, 0x31, 0x32, 0x35,
      0x38, 0x39] → csrStore (BitVec.ofNat 6 i) v s = s) ∧
    (i ∈ [0x07, 0x0B, 0x0E, 0x0F, 0x13, 0x17, 0x19, 0x1A, 0x1B, 0x1C, 0x1D, 0x1E, 0x1F, 0x33, 0x36, 0x37, 0x3A, 0x3B,
      0x3E, 0x3F] → csrStore (BitVec.ofNat 6 i) v s = s ∧ csrValue (BitVec.ofNat 6 i) s = 0)

/-! ### System commands and the bit cursor -/

/-- R240: NOP changes no state. -/
def Obligations.NopChangesNothing : Prop :=
  EncodedAs 0x00 0x00FFFFFF 0 .nop ∧ ∀ s : State, exec .nop s = .next s

/-- R102: the value of the next `n` view bits and the advance, and the three errors in their order. -/
def Obligations.BcRduReadsUnsigned : Prop :=
  ∀ (n : Nat) (s : State), n < 128 →
    EncodedAs 0x10 0x00FFFF80 n (.bcRdu n) ∧
    (n ≤ 64 → (n = 0 ∨ s.bcPos.toNat + n ≤ s.bcLen.toNat ∧
        s.bcBase.toNat + (s.bcPos.toNat + n - 1) / 8 < Config.dmemSize) →
      exec (.bcRdu n) s = .next { s with
        res := BitVec.ofNat 64 (readBits s.mem s.bcBase.toNat s.bcPos.toNat n)
        bcPos := BitVec.ofNat 32 (s.bcPos.toNat + n) }) ∧
    (64 < n → exec (.bcRdu n) s = .next (raiseCmdError .badOperand (encode (.bcRdu n)) s)) ∧
    (1 ≤ n → n ≤ 64 → s.bcLen.toNat < s.bcPos.toNat + n →
      exec (.bcRdu n) s = .next (raiseCmdError .short (encode (.bcRdu n)) s)) ∧
    (1 ≤ n → n ≤ 64 → s.bcPos.toNat + n ≤ s.bcLen.toNat →
      Config.dmemSize ≤ s.bcBase.toNat + (s.bcPos.toNat + n - 1) / 8 →
      exec (.bcRdu n) s = .next (raiseCmdError .addr (encode (.bcRdu n)) s))

/-- R103: as BC.RDU, with the cursor left where it is. -/
def Obligations.BcPeekKeepsCursor : Prop :=
  ∀ (n : Nat) (s : State), n < 128 →
    EncodedAs 0x12 0x00FFFF80 n (.bcPeek n) ∧
    (n ≤ 64 → (n = 0 ∨ s.bcPos.toNat + n ≤ s.bcLen.toNat ∧
        s.bcBase.toNat + (s.bcPos.toNat + n - 1) / 8 < Config.dmemSize) →
      exec (.bcPeek n) s =
        .next { s with res := BitVec.ofNat 64 (readBits s.mem s.bcBase.toNat s.bcPos.toNat n) }) ∧
    (64 < n → exec (.bcPeek n) s = .next (raiseCmdError .badOperand (encode (.bcPeek n)) s)) ∧
    (1 ≤ n → n ≤ 64 → s.bcLen.toNat < s.bcPos.toNat + n →
      exec (.bcPeek n) s = .next (raiseCmdError .short (encode (.bcPeek n)) s)) ∧
    (1 ≤ n → n ≤ 64 → s.bcPos.toNat + n ≤ s.bcLen.toNat →
      Config.dmemSize ≤ s.bcBase.toNat + (s.bcPos.toNat + n - 1) / 8 →
      exec (.bcPeek n) s = .next (raiseCmdError .addr (encode (.bcPeek n)) s))

/-- R104: the two's complement value, FLAGS.INV and the advance, and the errors in their order. -/
def Obligations.BcRdsReadsSigned : Prop :=
  ∀ (n u : Nat) (s : State), n < 128 → u = readBits s.mem s.bcBase.toNat s.bcPos.toNat n →
    EncodedAs 0x11 0x00FFFF80 n (.bcRds n) ∧
    (1 ≤ n → n ≤ 64 → s.bcPos.toNat + n ≤ s.bcLen.toNat →
      s.bcBase.toNat + (s.bcPos.toNat + n - 1) / 8 < Config.dmemSize →
      exec (.bcRds n) s = .next { s with
        res := BitVec.ofInt 64 (if 2 ^ (n - 1) ≤ u then (u : Int) - 2 ^ n else u)
        inv := decide (u = 2 ^ (n - 1))
        bcPos := BitVec.ofNat 32 (s.bcPos.toNat + n) }) ∧
    (n = 0 ∨ 64 < n → exec (.bcRds n) s = .next (raiseCmdError .badOperand (encode (.bcRds n)) s)) ∧
    (1 ≤ n → n ≤ 64 → s.bcLen.toNat < s.bcPos.toNat + n →
      exec (.bcRds n) s = .next (raiseCmdError .short (encode (.bcRds n)) s)) ∧
    (1 ≤ n → n ≤ 64 → s.bcPos.toNat + n ≤ s.bcLen.toNat →
      Config.dmemSize ≤ s.bcBase.toNat + (s.bcPos.toNat + n - 1) / 8 →
      exec (.bcRds n) s = .next (raiseCmdError .addr (encode (.bcRds n)) s))

/-- R105 and R106: BC.ADV moves the cursor, reading no memory, or ends in SHORT; BC.REM counts what remains. -/
def Obligations.BcAdvMovesAndBcRemCounts : Prop :=
  ∀ (m : Nat) (s : State), m < 65536 →
    EncodedAs 0x13 0x00FF0000 m (.bcAdv m) ∧ EncodedAs 0x14 0x00FFFFFF 0 .bcRem ∧
    (s.bcPos.toNat + m ≤ s.bcLen.toNat →
      exec (.bcAdv m) s = .next { s with bcPos := BitVec.ofNat 32 (s.bcPos.toNat + m) }) ∧
    (s.bcLen.toNat < s.bcPos.toNat + m →
      exec (.bcAdv m) s = .next (raiseCmdError .short (encode (.bcAdv m)) s)) ∧
    (s.bcPos.toNat ≤ s.bcLen.toNat →
      exec .bcRem s = .next { s with res := BitVec.ofNat 64 (s.bcLen.toNat - s.bcPos.toNat) })

/-! ### The bit writer -/

/-- R109: BW.WR puts the low `n` bits of ARG1:ARG0 at the sink's fill, first bit most significant, every other bit and
byte keeping its value; and the errors in their order. -/
def Obligations.BwWrAppendsBits : Prop :=
  ∀ (n : Nat) (s : State), n < 128 → s.mem.wf = true →
    EncodedAs 0x18 0x00FFFF80 n (.bwWr n) ∧
    (n ≤ 64 → s.bwPos.toNat + n ≤ s.bwCap.toNat →
      (n = 0 ∨ s.bwBase.toNat + (s.bwPos.toNat + n - 1) / 8 < Config.dmemSize) →
      ∃ m, exec (.bwWr n) s = .next { s with mem := m, bwPos := BitVec.ofNat 32 (s.bwPos.toNat + n) } ∧
        (∀ k, viewBit m s.bwBase.toNat k =
          if s.bwPos.toNat ≤ k ∧ k < s.bwPos.toNat + n
          then (s.arg1.toNat * 2 ^ 32 + s.arg0.toNat) / 2 ^ (n - 1 - (k - s.bwPos.toNat)) % 2
          else viewBit s.mem s.bwBase.toNat k) ∧
        ∀ a, ¬ touched s.bwBase.toNat s.bwPos.toNat n a → m.readByte a = s.mem.readByte a) ∧
    (64 < n → exec (.bwWr n) s = .next (raiseCmdError .badOperand (encode (.bwWr n)) s)) ∧
    (n ≤ 64 → s.bwCap.toNat < s.bwPos.toNat + n →
      exec (.bwWr n) s = .next (raiseCmdError .wfull (encode (.bwWr n)) s)) ∧
    (1 ≤ n → n ≤ 64 → s.bwPos.toNat + n ≤ s.bwCap.toNat →
      Config.dmemSize ≤ s.bwBase.toNat + (s.bwPos.toNat + n - 1) / 8 →
      exec (.bwWr n) s = .next (raiseCmdError .addr (encode (.bwWr n)) s))

/-- R110: BW.ALIGN writes zero bits up to the next byte boundary. -/
def Obligations.BwAlignPadsWithZeros : Prop :=
  ∀ (m : Nat) (s : State), s.mem.wf = true → m = (8 - s.bwPos.toNat % 8) % 8 →
    EncodedAs 0x19 0x00FFFFFF 0 .bwAlign ∧
    (s.bwPos.toNat + m ≤ s.bwCap.toNat →
      (m = 0 ∨ s.bwBase.toNat + (s.bwPos.toNat + m - 1) / 8 < Config.dmemSize) →
      ∃ m', exec .bwAlign s = .next { s with mem := m', bwPos := BitVec.ofNat 32 (s.bwPos.toNat + m) } ∧
        (∀ k, viewBit m' s.bwBase.toNat k =
          if s.bwPos.toNat ≤ k ∧ k < s.bwPos.toNat + m then 0 else viewBit s.mem s.bwBase.toNat k) ∧
        ∀ a, ¬ touched s.bwBase.toNat s.bwPos.toNat m a → m'.readByte a = s.mem.readByte a) ∧
    (s.bwCap.toNat < s.bwPos.toNat + m →
      exec .bwAlign s = .next (raiseCmdError .wfull (encode .bwAlign) s)) ∧
    (1 ≤ m → s.bwPos.toNat + m ≤ s.bwCap.toNat →
      Config.dmemSize ≤ s.bwBase.toNat + (s.bwPos.toNat + m - 1) / 8 →
      exec .bwAlign s = .next (raiseCmdError .addr (encode .bwAlign) s))

/-- Derived from R111: a field written by BW.WR and read by the cursor over the same bytes comes back. -/
def Obligations.WrittenFieldReadsBack : Prop :=
  ∀ (n : Nat) (s t : State), s.mem.wf = true → n ≤ 64 → s.bwPos.toNat + n ≤ s.bwCap.toNat →
    (n = 0 ∨ s.bwBase.toNat + (s.bwPos.toNat + n - 1) / 8 < Config.dmemSize) → exec (.bwWr n) s = .next t →
    exec (.bcPeek n) { t with bcBase := s.bwBase, bcLen := s.bwCap, bcPos := s.bwPos } =
      .next { t with
        bcBase := s.bwBase
        bcLen := s.bwCap
        bcPos := s.bwPos
        res := BitVec.ofNat 64 ((s.arg1.toNat * 2 ^ 32 + s.arg0.toNat) % 2 ^ n) }

/-! ### CRC-24Q and RTCM -/

/-- R121: CRC.INIT loads the OPEN initial value, whatever it is. -/
def Obligations.CrcInitLoadsInitialValue : Prop :=
  EncodedAs 0x20 0x00FFFFFF 0 .crcInit ∧
  ∀ s : State, exec .crcInit s = .next { s with crc := s.params.crc24qInit }

/-- Derived from R120, R122 and R125: CRC.BYTE divides by the polynomial, one message bit at a time, most significant
first. -/
def Obligations.CrcByteDividesByPolynomial : Prop :=
  ∀ (b : Byte) (s : State), EncodedAs 0x21 0x00FFFF00 b.toNat (.crcByte b) ∧
    exec (.crcByte b) s = .next { s with crc := crcBits s.crc b }

/-- R123: CRC.MEM folds the bytes of DMEM in order, or ends in ADDR. -/
def Obligations.CrcMemFoldsBytes : Prop :=
  EncodedAs 0x22 0x00FFFFFF 0 .crcMem ∧
  ∀ s : State,
    (s.arg1.toNat = 0 ∨ s.arg0.toNat + s.arg1.toNat ≤ Config.dmemSize →
      exec .crcMem s = .next { s with
        crc := (List.range s.arg1.toNat).foldl (fun c i => crcStep c (s.mem.readByte (s.arg0.toNat + i))) s.crc }) ∧
    (1 ≤ s.arg1.toNat → Config.dmemSize < s.arg0.toNat + s.arg1.toNat →
      exec .crcMem s = .next (raiseCmdError .addr (encode .crcMem) s))

/-- R124: CRC.CHK compares CRC with three bytes, most significant first, or ends in ADDR. -/
def Obligations.CrcChkComparesTrailer : Prop :=
  EncodedAs 0x23 0x00FFFFFF 0 .crcChk ∧
  ∀ s : State,
    (s.arg0.toNat + 3 ≤ Config.dmemSize →
      exec .crcChk s = .next { s with
        eq := decide (s.crc.toNat = 65536 * (s.mem.readByte s.arg0.toNat).toNat +
          256 * (s.mem.readByte (s.arg0.toNat + 1)).toNat + (s.mem.readByte (s.arg0.toNat + 2)).toNat) }) ∧
    (Config.dmemSize < s.arg0.toNat + 3 → exec .crcChk s = .next (raiseCmdError .addr (encode .crcChk) s))

/-- R128: RTCM.ENC writes header, payload and CRC, the payload as it was before the write, and nothing else; CRC is
kept; and the errors in their order. -/
def Obligations.RtcmEncBuildsFrame : Prop :=
  EncodedAs 0x28 0x00FFFFFF 0 .rtcmEnc ∧
  ∀ (s : State) (pay head : List Byte) (c : Nat), s.mem.wf = true →
    pay = s.mem.readBytes s.arg0.toNat s.arg1.toNat →
    head = [0xD3, BitVec.ofNat 8 (s.arg1.toNat / 256 % 4), BitVec.ofNat 8 (s.arg1.toNat % 256)] →
    c = (crc24q s.params.crc24qInit (head ++ pay)).toNat →
    (1 ≤ s.arg1.toNat → s.arg1.toNat ≤ 1023 → s.arg0.toNat + s.arg1.toNat ≤ Config.dmemSize →
      s.arg2.toNat + s.arg1.toNat + 6 ≤ Config.dmemSize →
      ∃ m, exec .rtcmEnc s = .next { s with mem := m, res := BitVec.ofNat 64 (s.arg1.toNat + 6) } ∧
        StoredAt s.mem m s.arg2.toNat (head ++ pay ++
          [BitVec.ofNat 8 (c / 65536), BitVec.ofNat 8 (c / 256 % 256), BitVec.ofNat 8 (c % 256)])) ∧
    (s.arg1.toNat = 0 ∨ 1023 < s.arg1.toNat →
      exec .rtcmEnc s = .next (raiseCmdError .badOperand (encode .rtcmEnc) s)) ∧
    (1 ≤ s.arg1.toNat → s.arg1.toNat ≤ 1023 →
      (Config.dmemSize < s.arg0.toNat + s.arg1.toNat ∨ Config.dmemSize < s.arg2.toNat + s.arg1.toNat + 6) →
      exec .rtcmEnc s = .next (raiseCmdError .addr (encode .rtcmEnc) s))

/-- Derived from R127 and R129: a whole frame with the preamble, zero reserved bits and `L ≥ 1` is accepted exactly when
its trailer is the CRC of what precedes it, exactly when the CRC over the whole frame is 0, for any initial value. -/
def Obligations.RtcmFrameValidExactlyOnZeroResidual : Prop :=
  ∀ (init : BitVec 24) (f : List Byte) (len : Nat), byteAt f 0 = 0xD3 → (byteAt f 1).toNat < 4 →
    len = 256 * (byteAt f 1).toNat + (byteAt f 2).toNat → 1 ≤ len → f.length = len + 6 →
    ((∃ n r, classify init .rtcm3 f = .ok n r) ↔
      [byteAt f (len + 3), byteAt f (len + 4), byteAt f (len + 5)] = crcTrailer (crc24q init (f.take (len + 3)))) ∧
    ((∃ n r, classify init .rtcm3 f = .ok n r) ↔ crc24q init f = 0)

/-- Derived from R130: what RTCM.ENC writes, fed to the demultiplexer, gives back one error-free record with the payload
as its body. -/
def Obligations.EncodedFrameDemultiplexes : Prop :=
  ∀ (s t : State), s.mem.wf = true → s.dmxCfg.kind = .rtcm3 → s.pending = [] → s.queue.length < Config.recqDepth →
    1 ≤ s.arg1.toNat → s.arg1.toNat ≤ 1023 → s.arg0.toNat + s.arg1.toNat ≤ Config.dmemSize →
    s.arg2.toNat + s.arg1.toNat + 6 ≤ Config.dmemSize → exec .rtcmEnc s = .next t →
    ∃ u, exec .dmxFeed { t with arg0 := s.arg2, arg1 := s.arg1 + 6 } = .next u ∧ u.pending = [] ∧ u.res = 1 ∧
      u.queue = s.queue ++ [⟨.dmx, .rtcm3, .frame, 0, 0, s.ctxWeek, s.ctxTow, 0,
        BitVec.ofNat 16 (if s.arg1.toNat = 1 then 0xFFFF else readBits s.mem s.arg0.toNat 0 12), 0,
        s.mem.readBytes s.arg0.toNat s.arg1.toNat⟩]

/-! ### GF(2^8) and HAS -/

/-- Derived from R141 and R143: GF(2^8) multiplication is the product of the field of 256 elements with the modulus
0x11D: commutative, associative, with 1, distributing over ⊕, every `a ≠ 0` having an inverse, and the product by 02
being the shift with `x^8` reduced to 1D. -/
def Obligations.GfProductIsFieldProduct : Prop :=
  ∀ a b c : Byte, gmul a b = gmul b a ∧ gmul (gmul a b) c = gmul a (gmul b c) ∧
    gmul a (b ^^^ c) = gmul a b ^^^ gmul a c ∧ gmul 1 a = a ∧ gmul 0 a = 0 ∧ (a ≠ 0 → ∃ y, gmul a y = 1) ∧
    gmul 2 a = (a <<< 1) ^^^ (if a.getLsbD 7 then 0x1D else 0)

/-- R152: GF.MUL. -/
def Obligations.GfMulWritesProduct : Prop :=
  EncodedAs 0x30 0x00FFFFFF 0 .gfMul ∧
  ∀ s : State, exec .gfMul s = .next { s with
    res := BitVec.ofNat 64 (gmul (BitVec.ofNat 8 s.arg0.toNat) (BitVec.ofNat 8 s.arg1.toNat)).toNat }

/-- R153: GF.INV gives the unique inverse of R143; 0 is a BAD_OPERAND. -/
def Obligations.GfInvWritesUniqueInverse : Prop :=
  EncodedAs 0x31 0x00FFFFFF 0 .gfInv ∧
  ∀ s : State,
    (s.arg0.toNat % 256 ≠ 0 → ∃ y : Byte, gmul (BitVec.ofNat 8 s.arg0.toNat) y = 1 ∧
      (∀ z, gmul (BitVec.ofNat 8 s.arg0.toNat) z = 1 → z = y) ∧
      exec .gfInv s = .next { s with res := BitVec.ofNat 64 y.toNat }) ∧
    (s.arg0.toNat % 256 = 0 → exec .gfInv s = .next (raiseCmdError .badOperand (encode .gfInv) s))

/-- R147: HasSolve succeeds exactly when the matrix of the held columns is nonsingular, and what it gives solves the
system for every byte row. -/
def Obligations.HasSolveInvertsNonsingularSystems : Prop :=
  ∀ (p : Config.Params) (ms : Nat) (pages : List (Nat × List Byte)), pages.length = ms →
    (∀ q ∈ pages, q.2.length = 53) →
    ((∃ x, hasSolve p ms pages = some x) ↔ Nonsingular p ms (pages.map (·.1))) ∧
    ∀ x, hasSolve p ms pages = some x → x.length = 53 * ms ∧
      ∀ q ∈ pages, ∀ r, r < 53 → pageSymbol p ms (fun i => x.getD (i * 53 + r) 0) q.1 = q.2.getD r 0

/-- Derived from R148: pages 1 to MS are the cleartext, and a set that holds a page with `MS < PID ≤ 32` fails; both for
any generator. -/
def Obligations.SystematicPagesDecodeForAnyGenerator : Prop :=
  ∀ (p : Config.Params) (ms : Nat) (pages : List (Nat × List Byte)), pages.length = ms →
    (∀ q ∈ pages, q.2.length = 53) →
    (ms ≤ 32 → pages.map (·.1) = (List.range ms).map (· + 1) →
      hasSolve p ms pages = some (pages.map (·.2)).flatten) ∧
    (∀ q ∈ pages, ms < q.1 → q.1 ≤ 32 → hasSolve p ms pages = none)

/-- R149: a page out of range makes one record, in the order PID, MID, MS, and changes no slot; with R146's address
errors. -/
def Obligations.HasPageRejectsInvalidPages : Prop :=
  EncodedAs 0x32 0x00FFFFFF 0 .hasPage ∧
  ∀ s : State,
    (Config.dmemSize < s.arg0.toNat + 53 ∨ (1 ≤ msOf s ∧ msOf s ≤ 32 ∧ Config.dmemSize < s.hasDst.toNat + 53 * msOf s) →
      exec .hasPage s = .next (raiseCmdError .addr (encode .hasPage) s)) ∧
    (s.arg0.toNat + 53 ≤ Config.dmemSize →
      (1 ≤ msOf s → msOf s ≤ 32 → s.hasDst.toNat + 53 * msOf s ≤ Config.dmemSize) →
      (pidOf s = 0 → exec .hasPage s =
        .next { emit (hasRec s .badPid 0 (midOf s) 0 (65536 * msOf s)) s with res := 0 }) ∧
      (1 ≤ pidOf s → midOf s = 0 → exec .hasPage s =
        .next { emit (hasRec s .badMid 0 0 (pidOf s) (65536 * msOf s)) s with res := 0 }) ∧
      (1 ≤ pidOf s → 1 ≤ midOf s → msOf s = 0 ∨ 32 < msOf s → exec .hasPage s =
        .next { emit (hasRec s .badMs 0 (midOf s) (pidOf s) (65536 * msOf s)) s with res := 0 }))

/-- Derived from R146 and R150: a valid page that does not complete its group joins it, or is ignored as a duplicate. -/
def Obligations.HasPageCollectsDistinctPages : Prop :=
  ∀ (s : State) (ps : List (Nat × List Byte)), ValidPage s → HeldPages s ps →
    ((∀ y, (pidOf s, y) ∉ ps) → ps.length + 1 < msOf s →
      ∃ qs : List (Nat × List Byte),
        exec .hasPage s = .next { s with
          hasSlots := s.hasSlots.setIfInBounds (midOf s - 1) (some ⟨msOf s, qs⟩)
          res := BitVec.ofNat 64 (ps.length + 1) } ∧
        qs.length = ps.length + 1 ∧
        ∀ q, q ∈ qs ↔ q ∈ ps ∨ q = (pidOf s, s.mem.readBytes s.arg0.toNat 53)) ∧
    ((∃ y, (pidOf s, y) ∈ ps) → ps.Pairwise (fun p q => p.1 < q.1) → ps.length < msOf s →
      exec .hasPage s = .next { s with res := BitVec.ofNat 64 ps.length })

/-- Derived from R150: a page with another MS discards the held group with one record and starts a new one. -/
def Obligations.HasPageReplacesMismatchedGroup : Prop :=
  ∀ (s : State) (g : HasGroup), ValidPage s → slotOf s (midOf s) = some g → g.ms ≤ 32 → g.ms ≠ msOf s →
    exec .hasPage s = exec .hasPage { emit (hasRec s .msMismatch 0 (midOf s) (pidOf s) (g.ms + 65536 * msOf s)) s with
      hasSlots := s.hasSlots.setIfInBounds (midOf s - 1) none }

/-- Derived from R151: the page that completes its group decodes it at once; success writes the cleartext at HAS_DST
and nothing else, failure writes no DMEM; either way one record, one STATUS bit and an EMPTY slot. That the pages are
held in the order of their PIDs is the model's (log entry 13). -/
def Obligations.HasPageCompletionDecodes : Prop :=
  ∀ (s : State) (ps : List (Nat × List Byte)), Inv s → ValidPage s → HeldPages s ps →
    (∀ y, (pidOf s, y) ∉ ps) → ps.length + 1 = msOf s →
    ∃ qs : List (Nat × List Byte), qs.Pairwise (fun p q => p.1 < q.1) ∧
      (∀ q, q ∈ qs ↔ q ∈ ps ∨ q = (pidOf s, s.mem.readBytes s.arg0.toNat 53)) ∧
      (∀ clear, hasSolve s.params (msOf s) qs = some clear →
        ∃ m, exec .hasPage s = .next
          { emit (hasRec s .hasDone 0 (midOf s) (53 * msOf s) (65536 * msOf s)) { s with mem := m } with
            hasDone := true
            hasSlots := s.hasSlots.setIfInBounds (midOf s - 1) none
            res := 0 } ∧
          StoredAt s.mem m s.hasDst.toNat clear ∧ clear.length = 53 * msOf s) ∧
      (hasSolve s.params (msOf s) qs = none → exec .hasPage s = .next
        { emit (hasRec s .rsFail 8 (midOf s) 0 (65536 * msOf s)) s with
          hasFail := true
          hasSlots := s.hasSlots.setIfInBounds (midOf s - 1) none
          res := 0 })

/-- R155: HAS.CLR empties every slot and makes no record. -/
def Obligations.HasClrEmptiesSlots : Prop :=
  EncodedAs 0x33 0x00FFFFFF 0 .hasClr ∧
  ∀ s : State, ∃ v : Vector (Option HasGroup) 31, exec .hasClr s = .next { s with hasSlots := v, res := 0 } ∧
    (∀ g ∈ v.toList, g = none) ∧ csrValue 0x35 { s with hasSlots := v } = 0

/-! ### The record queue -/

/-- Derived from R178: a record is put at the end of the queue, or is lost when the queue is full. -/
def Obligations.EmitDropsOnlyWhenFull : Prop :=
  ∀ (r : Record) (s : State),
    (s.queue.length = 8 → emit r s = { s with cntDrop := s.cntDrop + 1, recqOvf := true }) ∧
    (s.queue.length ≠ 8 → emit r s = { s with queue := s.queue ++ [r], emitted := s.emitted + 1 }) ∧
    ((statusWord s).getLsbD 1 = true ↔ 0 < s.queue.length)

/-- R192, with the numbers of R171, R177 and R254: REC.POP moves the oldest record into DMEM and the REC registers, and
the errors in their order. -/
def Obligations.RecPopRemovesOldest : Prop :=
  EncodedAs 0x3B 0x00FFFFFF 0 .recPop ∧
  ∀ (s : State), s.mem.wf = true →
    (s.queue = [] → exec .recPop s = .next (raiseCmdError .qempty (encode .recPop) s)) ∧
    ∀ r rest, s.queue = r :: rest →
      (r.body = [] ∨ s.arg0.toNat + r.body.length ≤ Config.dmemSize →
        ∃ m, exec .recPop s = .next { s with
            queue := rest
            mem := m
            recRegs := ⟨BitVec.ofNat 32 (stageNumber r.stage + 16 * kindNumber r.kind + 256 * codeNumber r.code +
              65536 * r.errmap.toNat), r.prn, r.week, r.tow, r.aux, r.msgid, BitVec.ofNat 16 r.body.length, r.ext⟩
            res := BitVec.ofNat 64 r.body.length } ∧
          StoredAt s.mem m s.arg0.toNat r.body) ∧
      (r.body ≠ [] → Config.dmemSize < s.arg0.toNat + r.body.length →
        exec .recPop s = .next (raiseCmdError .addr (encode .recPop) s))

/-! ### The demultiplexer -/

/-- R174, with the records of R177 and R179: the scan, outcome by outcome. -/
def Obligations.ScanFollowsClassification : Prop :=
  ∀ (s : State),
    (s.pending = [] → scanAll s = s) ∧
    (s.pending ≠ [] →
      match classify s.params.crc24qInit s.dmxCfg.kind s.pending with
      | .needMore => scanAll s = s
      | .noSync => scanAll s =
          scanAll { s with pending := s.pending.tail, cntSkip := s.cntSkip + 1, syncLost := true }
      | .err code bit => scanAll s = scanAll
          { emit ⟨.dmx, s.dmxCfg.kind, code, 1#7 <<< bit, 0, s.ctxWeek, s.ctxTow, 0, 0, 0, []⟩ s with
            cntErr := s.cntErr + 1
            pending := s.pending.tail }
      | .ok n f => scanAll s = scanAll (deliver
          ⟨.dmx, s.dmxCfg.kind, .frame, f.errmap, f.prn, f.time.elim s.ctxWeek Prod.fst, f.time.elim s.ctxTow Prod.snd,
            f.aux, f.msgid, f.ext, f.body⟩ { s with pending := s.pending.drop n }))

/-- Derived from R173: what the outcomes mean, for every kind: a frame that is waited for is longer than what is pending
and never longer than DMX_MAXLEN, an accepted one is pending whole, an error is a length or checksum error with its
ERRMAP bit. -/
def Obligations.ClassificationIsBounded : Prop :=
  ∀ (init : BitVec 24) (k : Kind) (p : List Byte), p ≠ [] →
    (classify init k p = .needMore → p.length < Config.dmxMaxLen) ∧
    (∀ n f, classify init k p = .ok n f → 1 ≤ n ∧ n ≤ p.length ∧ n ≤ Config.dmxMaxLen ∧ f.body.length ≤ n) ∧
    (∀ c b, classify init k p = .err c b → (c = .checksumFail ∧ b = 0) ∨ (c = .lengthFail ∧ b = 1))

/-- Derived from R173 and R181 to R191: for every kind, what each sync, length and checksum test answers, byte by byte,
and the record fields of an accepted frame. The offsets and initial values that the spec takes from general knowledge are
log entry 19. -/
def Obligations.KindsAcceptExactlyTheirFrames : Prop :=
  ∀ (init : BitVec 24) (p : List Byte), p ≠ [] →
    (∀ k, SyncRule init p k) ∧ classify init .none p = .noSync ∧
    (p.take 1 = syncOf .rtcm3 → RtcmRule init p) ∧ (p.take 4 = syncOf .allystar → AllystarRule init p) ∧
    (p.take 3 = syncOf .novatel → NovatelRule init p) ∧ (p.take 2 = syncOf .sbf → SbfRule init p) ∧
    (p.take 2 = syncOf .ubx → UbxRule init p) ∧ (p.take 4 = syncOf .rawL6 → RawL6Rule init p) ∧
    RawFixedRule init p .rawL1s 33 250 ∧ RawFixedRule init p .rawE6b 63 492 ∧ RawFixedRule init p .rawB2b 63 486

/-- Derived from R180 and R194: the record of an accepted frame is counted, filtered by the PIN, offered to the
best-satellite selection, or put into the queue. That a record with ERRMAP not 0 counts in CNT_ERR alone follows R41 and
R180 against vector D-A4, which counts it in CNT_OK too: the model's reading (log entry 15, DEDUCED, unsafe). -/
def Obligations.DeliverCountsAndFilters : Prop :=
  ∀ (r : Record) (s : State),
    (r.errmap ≠ 0 → deliver r s = emit r { s with cntErr := s.cntErr + 1 }) ∧
    (r.errmap = 0 → s.dmxCfg.pinEn = true →
      s.dmxCfg.kind ∈ [Kind.allystar, Kind.rawL6, Kind.rawL1s, Kind.rawE6b, Kind.rawB2b] →
      r.prn.toInt ≠ s.dmxCfg.pinPrn.toInt → deliver r s = { s with cntOk := s.cntOk + 1 }) ∧
    (r.errmap = 0 → (s.dmxCfg.pinEn = false ∨
        s.dmxCfg.kind ∉ [Kind.allystar, Kind.rawL6, Kind.rawL1s, Kind.rawE6b, Kind.rawB2b] ∨
        r.prn.toInt = s.dmxCfg.pinPrn.toInt) →
      (s.dmxCfg.kind = .allystar → s.dmxCfg.bssEn = true →
        deliver r s = bssOffer r { s with cntOk := s.cntOk + 1 }) ∧
      (s.dmxCfg.kind ≠ .allystar ∨ s.dmxCfg.bssEn = false →
        deliver r s = emit r { s with cntOk := s.cntOk + 1 }))

/-- R193: DMX.BYTE appends its byte, scans, and counts the records it put into the queue. -/
def Obligations.DmxBytePushesOneByte : Prop :=
  ∀ (b : Byte) (s t : State), t = scanAll { s with emitted := 0, pending := s.pending ++ [b] } →
    EncodedAs 0x38 0x00FFFF00 b.toNat (.dmxByte b) ∧
    exec (.dmxByte b) s = .next { t with res := BitVec.ofNat 64 t.emitted }

/-- R200: DMX.FEED pushes the bytes of DMEM one after another, or ends in ADDR before any of them. -/
def Obligations.DmxFeedPushesBytesInOrder : Prop :=
  EncodedAs 0x39 0x00FFFFFF 0 .dmxFeed ∧
  ∀ (s t : State),
    t = (s.mem.readBytes s.arg0.toNat s.arg1.toNat).foldl
      (fun u b => scanAll { u with pending := u.pending ++ [b] }) { s with emitted := 0 } →
    (s.arg1.toNat = 0 ∨ s.arg0.toNat + s.arg1.toNat ≤ Config.dmemSize →
      exec .dmxFeed s = .next { t with res := BitVec.ofNat 64 t.emitted }) ∧
    (1 ≤ s.arg1.toNat → Config.dmemSize < s.arg0.toNat + s.arg1.toNat →
      exec .dmxFeed s = .next (raiseCmdError .addr (encode .dmxFeed) s))

/-- R198: DMX.EOS counts and drops what is pending and closes the open tick. -/
def Obligations.DmxEosClosesStream : Prop :=
  EncodedAs 0x3A 0x00FFFFFF 0 .dmxEos ∧
  ∀ (s t : State),
    t = bssClose { s with
      emitted := 0
      cntSkip := s.cntSkip + BitVec.ofNat 32 s.pending.length
      pending := [] } →
    exec .dmxEos s = .next { t with res := BitVec.ofNat 64 t.emitted } ∧ t.pending = [] ∧ t.bssTable = []

/-- R197: closing a tick emits the entry with the largest C/No, of the smallest signed PRN among equals, and empties
the table. -/
def Obligations.TickCloseEmitsBestSatellite : Prop :=
  ∀ s : State,
    (s.bssTable = [] → bssClose s = s) ∧
    (s.bssTable ≠ [] → ∃ e ∈ s.bssTable,
      (∀ r ∈ s.bssTable, r.aux.toNat % 256 < e.aux.toNat % 256 ∨
        (r.aux.toNat % 256 = e.aux.toNat % 256 ∧ e.prn.toInt ≤ r.prn.toInt)) ∧
      bssClose s = { emit e s with bssTable := [] })

/-- Derived from R195 and R196: offering a record closes an older tick first; then it replaces the entry of its PRN, or
is added, or is dropped when the table is full. The order of the entries is the model's (log entry 12). -/
def Obligations.BssOfferKeepsLatestPerSatellite : Prop :=
  ∀ (r : Record) (s : State),
    (s.bssTable ≠ [] → r.tow ≠ s.bssTow → bssOffer r s = bssOffer r (bssClose s)) ∧
    (s.bssTable = [] → bssOffer r s = { s with bssTable := [r], bssTow := r.tow }) ∧
    (s.bssTable ≠ [] → r.tow = s.bssTow →
      (∀ pre e post, s.bssTable = pre ++ e :: post → e.prn = r.prn → (∀ x ∈ pre ++ post, x.prn ≠ r.prn) →
        bssOffer r s = { s with bssTable := pre ++ r :: post }) ∧
      ((∀ e ∈ s.bssTable, e.prn ≠ r.prn) → s.bssTable.length < 32 →
        bssOffer r s = { s with bssTable := s.bssTable ++ [r] }) ∧
      ((∀ e ∈ s.bssTable, e.prn ≠ r.prn) → 32 ≤ s.bssTable.length →
        bssOffer r s = { s with cntDrop := s.cntDrop + 1 }))

/-! ### The subframe assembler -/

/-- R223, R226 and R227, with R221's address check: the frames that place no data part: out of range, bad preamble, chain break
and orphan. -/
def Obligations.SfaPushReportsUnusableFrames : Prop :=
  EncodedAs 0x40 0x00FFFFFF 0 .sfaPush ∧
  ∀ s : State,
    (¬ FrameInRange s → exec .sfaPush s = .next (raiseCmdError .addr (encode .sfaPush) s)) ∧
    (FrameInRange s → framePreamble s ≠ 0x1ACFFC1D →
      exec .sfaPush s = .next
        { emit (sfRec s .sfBadPre 0 0 (framePreamble s) 0) s with res := BitVec.ofNat 64 s.sfaN }) ∧
    (FrameInRange s → framePreamble s = 0x1ACFFC1D → frameMtid s % 2 = 0 → 1 ≤ s.sfaN → s.sfaN ≤ 4 →
      framePrn s ≠ s.sfaPrn.toNat ∨ frameMtid s / 32 ≠ s.sfaVendor.toNat →
      exec .sfaPush s = .next
        { emit (sfRec s .sfAbort s.sfaPrn.toNat (frameMtid s) (1695 * s.sfaN) (s.sfaN + 256 * framePrn s)) s with
          sfaN := 0
          res := 0 }) ∧
    (FrameInRange s → framePreamble s = 0x1ACFFC1D → frameMtid s % 2 = 0 → s.sfaN = 0 ∨ 5 ≤ s.sfaN →
      exec .sfaPush s = .next
        { emit (sfRec s .sfOrphan (framePrn s) (frameMtid s) 0 s.sfaN) s with res := BitVec.ofNat 64 s.sfaN })

/-- R225, with R222's placement: a frame with SFI = 1 flushes an open subframe with one record and starts a new
one: the buffer holds the first data part and zeros, and nothing else of DMEM changes. -/
def Obligations.SfaPushStartsSubframe : Prop :=
  ∀ (s t : State), s.mem.wf = true → FrameInRange s → framePreamble s = 0x1ACFFC1D → frameMtid s % 2 = 1 →
    t = (if 1 ≤ s.sfaN ∧ s.sfaN ≤ 4
      then emit (sfRec s .sfFlush s.sfaPrn.toNat (frameMtid s) (1695 * s.sfaN) s.sfaN) s else s) →
    ∃ m, exec .sfaPush s = .next { t with
        mem := m
        sfaN := 1
        sfaPrn := BitVec.ofNat 8 (framePrn s)
        sfaVendor := BitVec.ofNat 3 (frameMtid s / 32)
        res := 1 } ∧
      (∀ k, k < 8480 → viewBit m s.sfaBase.toNat k =
        if k < 1695 then viewBit s.mem s.arg0.toNat (49 + k) else 0) ∧
      ∀ a, a < s.sfaBase.toNat ∨ s.sfaBase.toNat + 1060 ≤ a → m.readByte a = s.mem.readByte a

/-- Derived from R221, R222 and R224: the next frame of the open subframe puts its data part behind those held, and the
fifth completes the subframe; no other bit of DMEM changes. -/
def Obligations.SfaPushAppendsDataPart : Prop :=
  ∀ s : State, s.mem.wf = true → FrameInRange s → framePreamble s = 0x1ACFFC1D → frameMtid s % 2 = 0 →
    1 ≤ s.sfaN → s.sfaN ≤ 4 → framePrn s = s.sfaPrn.toNat → frameMtid s / 32 = s.sfaVendor.toNat →
    ∃ m, (s.sfaN < 4 → exec .sfaPush s = .next { s with
          mem := m
          sfaN := s.sfaN + 1
          res := BitVec.ofNat 64 (s.sfaN + 1) }) ∧
      (s.sfaN = 4 → exec .sfaPush s = .next
        { emit (sfRec s .sfComplete s.sfaPrn.toNat (frameMtid s) 8475 5) s with
          mem := m
          sfaN := 5
          sfDone := true
          res := 5 }) ∧
      (∀ k, viewBit m s.sfaBase.toNat k =
        if 1695 * s.sfaN ≤ k ∧ k < 1695 * (s.sfaN + 1)
        then viewBit s.mem s.arg0.toNat (49 + (k - 1695 * s.sfaN)) else viewBit s.mem s.sfaBase.toNat k) ∧
      ∀ a, a < s.sfaBase.toNat ∨ s.sfaBase.toNat + 1060 ≤ a → m.readByte a = s.mem.readByte a

/-- R228: SFA.CLR discards the subframe, writes no DMEM and makes no record. -/
def Obligations.SfaClrDiscardsSubframe : Prop :=
  EncodedAs 0x41 0x00FFFFFF 0 .sfaClr ∧
  ∀ s : State, exec .sfaClr s = .next { s with sfaN := 0, sfaPrn := 0, sfaVendor := 0, res := 0 }

/-! ### The invariant -/

/-- Derived from R280: the reset state meets the invariant. -/
def Obligations.ResetMeetsInvariant : Prop := Inv State.reset

/-- Derived from R24, R33, R36, R53 to R57, R62, R175 and R231: every step keeps the invariant, from every state that
meets it, whatever host access comes next. -/
def Obligations.StepKeepsInvariant : Prop :=
  ∀ s t : State, Inv s → step s = .next t → Inv t
end

