-- ==== Sys2Proof/Laws/Frames.lean ====
section
/-! SUPPORT. The checksums of the framing kinds against their forms in numbers (R182 to R184), and byte sequences
against `num` and the list operations. -/

namespace Sys2Proof.Laws

open Sys2Proof Sys2Proof.Machine Sys2Proof.Safety

theorem byteAt_toNat (p : List Byte) (i : Nat) : (byteAt p i).toNat = num p i := rfl

theorem le16_eq (p : List Byte) (a : Nat) : le16 p a = numLe p a := rfl

theorem be16_eq (p : List Byte) (a : Nat) : be16 p a = numBe p a := rfl

theorem num_lt (p : List Byte) (i : Nat) : num p i < 256 := (p.getD i 0).isLt

/-- A step on words and a step on numbers that agree, repeated. -/
theorem toNat_iterate {w : Nat} (f : BitVec w → BitVec w) (g : Nat → Nat) (h : ∀ c, (f c).toNat = g c.toNat)
    (k : Nat) (c : BitVec w) : (f^[k] c).toNat = g^[k] c.toNat := by
  induction k generalizing c with
  | zero => rfl
  | succ k ih => rw [Function.iterate_succ_apply, Function.iterate_succ_apply, ih, h]

/-- A fold on words and a fold on numbers that agree. -/
theorem toNat_foldl {w : Nat} (f : BitVec w → Byte → BitVec w) (g : Nat → Byte → Nat)
    (h : ∀ c x, (f c x).toNat = g c.toNat x) (bs : List Byte) (c : BitVec w) :
    (bs.foldl f c).toNat = bs.foldl g c.toNat := by
  induction bs generalizing c with
  | nil => rfl
  | cons x bs ih => rw [List.foldl_cons, List.foldl_cons, ih, h]

theorem crc32Shift_toNat (c : Word) : (crc32Shift c).toNat = crc32Turn c.toNat := by
  have : c.getLsbD 0 = decide (c.toNat % 2 = 1) := by simp [BitVec.getLsbD, Nat.testBit_zero]
  unfold crc32Shift crc32Turn
  rw [this]
  by_cases h : c.toNat % 2 = 1 <;> simp [h, Nat.shiftRight_eq_div_pow]

/-- `CRC32R` in numbers (R183). -/
theorem crc32r_toNat (bs : List Byte) : (crc32r bs).toNat = crc32Sum bs := by
  unfold crc32r crc32Sum
  refine toNat_foldl _ _ (fun c x => ?_) bs _
  rw [toNat_iterate crc32Shift crc32Turn crc32Shift_toNat]
  have hx : x.toNat < 2 ^ 32 := by have := x.isLt; omega
  rw [BitVec.toNat_xor, BitVec.toNat_setWidth, Nat.mod_eq_of_lt hx]

theorem crc16Shift_toNat (c : BitVec 16) : (crc16Shift c).toNat = crc16Turn c.toNat := by
  have hm : c.getLsbD 15 = decide (0x8000 ≤ c.toNat) := by
    have := BitVec.msb_eq_decide c
    simpa [BitVec.msb_eq_getLsbD_last] using this
  have hs : (c <<< 1).toNat = 2 * c.toNat % 2 ^ 16 := by
    rw [BitVec.toNat_shiftLeft, Nat.shiftLeft_eq, Nat.mul_comm]
  unfold crc16Shift crc16Turn
  rw [hm]
  by_cases h : 0x8000 ≤ c.toNat
  · simp only [h, decide_true, if_true, BitVec.toNat_xor, hs]
    rw [show (65536 : Nat) = 2 ^ 16 from rfl, Nat.xor_mod_two_pow]
    rfl
  · simpa [h] using hs

/-- `CRC16` in numbers (R184). -/
theorem crc16_toNat (bs : List Byte) : (crc16 bs).toNat = crc16Sum bs := by
  unfold crc16 crc16Sum
  refine toNat_foldl _ _ (fun c x => ?_) bs _
  rw [toNat_iterate crc16Shift crc16Turn crc16Shift_toNat]
  have hx := x.isLt
  have hu : (upperByte x).toNat = 256 * x.toNat := by
    simp only [upperByte, BitVec.toNat_shiftLeft, BitVec.toNat_setWidth, Nat.shiftLeft_eq]
    omega
  rw [BitVec.toNat_xor, hu]

/-- `Fletcher8` from any sums: what the rest of the bytes adds. -/
theorem fletcher_foldl (bs : List Byte) (a b : Byte) :
    let r := bs.foldl (fun (a, b) x => (a + x, b + (a + x))) (a, b)
    r.1.toNat = (a.toNat + (bs.map BitVec.toNat).sum) % 256 ∧
      r.2.toNat = (b.toNat + bs.length * a.toNat +
        ((List.range bs.length).map fun i => (bs.length - i) * num bs i).sum) % 256 := by
  induction bs generalizing a b with
  | nil => exact ⟨by simpa using (Nat.mod_eq_of_lt a.isLt).symm, by simpa using (Nat.mod_eq_of_lt b.isLt).symm⟩
  | cons x bs ih =>
    obtain ⟨h1, h2⟩ := ih (a + x) (b + (a + x))
    have hr : ((List.range (x :: bs).length).map fun i => ((x :: bs).length - i) * num (x :: bs) i).sum =
        (bs.length + 1) * x.toNat + ((List.range bs.length).map fun i => (bs.length - i) * num bs i).sum := by
      simp [List.range_succ_eq_map, num, Function.comp_def]
    simp only [List.foldl_cons]
    refine ⟨?_, ?_⟩
    · rw [h1, BitVec.toNat_add, List.map_cons, List.sum_cons]
      omega
    · rw [h2, hr, List.length_cons]
      simp only [BitVec.toNat_add]
      generalize ((List.range bs.length).map fun i => (bs.length - i) * num bs i).sum = S
      have e : ∀ k : Nat, k * ((a.toNat + x.toNat) % 2 ^ 8) % 256 = k * (a.toNat + x.toNat) % 256 := fun k => by
        rw [Nat.mul_mod, Nat.mod_mod_of_dvd _ (by decide), ← Nat.mul_mod]
      have e := e bs.length
      have e2 : bs.length * (a.toNat + x.toNat) = bs.length * a.toNat + bs.length * x.toNat := Nat.mul_add ..
      have e3 : (bs.length + 1) * a.toNat = bs.length * a.toNat + a.toNat := Nat.succ_mul ..
      have e4 : (bs.length + 1) * x.toNat = bs.length * x.toNat + x.toNat := Nat.succ_mul ..
      omega

/-- `Fletcher8` in closed form (R182). -/
theorem fletcher8_toNat (bs : List Byte) :
    (fletcher8 bs).1.toNat = fletcherA bs ∧ (fletcher8 bs).2.toNat = fletcherB bs := by
  have h := fletcher_foldl bs 0 0
  simpa [fletcher8, fletcherA, fletcherB] using h

/-- The pair that a frame ends with is its Fletcher pair exactly when both sums agree. -/
theorem fletcher8_eq_iff (bs : List Byte) (x y : Byte) :
    fletcher8 bs = (x, y) ↔ x.toNat = fletcherA bs ∧ y.toNat = fletcherB bs := by
  obtain ⟨h1, h2⟩ := fletcher8_toNat bs
  rw [← h1, ← h2, Prod.ext_iff, BitVec.toNat_inj, BitVec.toNat_inj]
  exact ⟨fun h => ⟨h.1.symm, h.2.symm⟩, fun h => ⟨h.1.symm, h.2.symm⟩⟩

/-! ### Sync patterns -/

/-- Bytes that begin with the whole pattern pass it. -/
theorem syncMatch_of_take {p s : List Byte} (h : p.take s.length = s) : syncMatch p s = none := by
  induction s generalizing p with
  | nil => cases p <;> rfl
  | cons x s ih =>
    cases p with
    | nil => simp at h
    | cons y p =>
      obtain ⟨rfl, ht⟩ := List.cons.inj (by simpa using h)
      simpa [syncMatch] using ih ht

/-- A proper prefix of the pattern waits. -/
theorem syncMatch_of_prefix {p s : List Byte} (hl : p.length < s.length) (h : p = s.take p.length) :
    syncMatch p s = some .needMore := by
  induction s generalizing p with
  | nil => simp at hl
  | cons x s ih =>
    cases p with
    | nil => rfl
    | cons y p =>
      obtain ⟨rfl, ht⟩ := List.cons.inj (by simpa using h)
      simpa [syncMatch] using ih (by simpa using hl) ht

/-- Bytes that differ from the pattern fail it. -/
theorem syncMatch_of_ne {p s : List Byte} (h : p.take s.length ≠ s.take p.length) :
    syncMatch p s = some .noSync := by
  induction s generalizing p with
  | nil => simp at h
  | cons x s ih =>
    cases p with
    | nil => simp at h
    | cons y p =>
      by_cases hx : y = x
      · subst hx
        simpa [syncMatch] using ih (by simpa using h)
      · simp [syncMatch, hx]

end Sys2Proof.Laws
end

