-- ==== Sys2Proof/Laws/Memory.lean ====
section
/-! SUPPORT. DMEM's laws: every operation keeps the canonical form, a read returns what was written, and every other
place is left alone. -/

namespace Sys2Proof.Laws

open Sys2Proof Sys2Proof.Machine

/-- Strictly rising addresses. -/
abbrev Rising (cs : List Host.Cell) : Prop := cs.Pairwise fun c d => c.1 < d.1

theorem wf_iff (m : Memory) : m.wf = true ↔
    Rising m.cells ∧ ∀ c ∈ m.cells, c.1 < Config.dmemSize ∧ c.2 ≠ m.unlisted c.1 := by
  simp only [Memory.wf, Bool.and_eq_true, decide_eq_true_eq, List.all_eq_true]

theorem mem_insertCell {a : Nat} {v : Byte} {cs : List Host.Cell} {c : Host.Cell} (h : c ∈ insertCell a v cs) :
    c = (a, v) ∨ c ∈ cs := by
  induction cs with
  | nil => exact .inl (by simpa [insertCell] using h)
  | cons d cs ih =>
    obtain ⟨b, w⟩ := d
    simp only [insertCell] at h
    split_ifs at h
    · simpa using h
    · rcases List.mem_cons.1 h with h | h
      · exact .inl h
      · exact .inr (List.mem_cons_of_mem _ h)
    · rcases List.mem_cons.1 h with h | h
      · exact .inr (by simp [h])
      · exact (ih h).imp id (List.mem_cons_of_mem _)

theorem mem_eraseCell {a : Nat} {cs : List Host.Cell} {c : Host.Cell} (h : c ∈ eraseCell a cs) : c ∈ cs := by
  induction cs with
  | nil => simp [eraseCell] at h
  | cons d cs ih =>
    obtain ⟨b, w⟩ := d
    simp only [eraseCell] at h
    split_ifs at h
    · exact List.mem_cons_of_mem _ h
    · rcases List.mem_cons.1 h with h | h
      · simp [h]
      · exact List.mem_cons_of_mem _ (ih h)

theorem rising_insertCell (a : Nat) (v : Byte) {cs : List Host.Cell} (h : Rising cs) : Rising (insertCell a v cs) := by
  induction cs with
  | nil => simp [insertCell, Rising]
  | cons d cs ih =>
    obtain ⟨b, w⟩ := d
    obtain ⟨hb, hcs⟩ := List.pairwise_cons.1 h
    simp only [insertCell]
    split_ifs with h1 h2
    · refine List.pairwise_cons.2 ⟨fun c hc => ?_, h⟩
      rcases List.mem_cons.1 hc with rfl | hc
      · exact h1
      · exact h1.trans (hb c hc)
    · subst h2
      exact List.pairwise_cons.2 ⟨hb, hcs⟩
    · refine List.pairwise_cons.2 ⟨fun c hc => ?_, ih hcs⟩
      rcases mem_insertCell hc with rfl | hc
      · exact lt_of_le_of_ne (not_lt.1 h1) (Ne.symm h2)
      · exact hb c hc

theorem rising_eraseCell (a : Nat) {cs : List Host.Cell} (h : Rising cs) : Rising (eraseCell a cs) := by
  induction cs with
  | nil => simp [eraseCell, Rising]
  | cons d cs ih =>
    obtain ⟨b, w⟩ := d
    obtain ⟨hb, hcs⟩ := List.pairwise_cons.1 h
    simp only [eraseCell]
    split_ifs
    · exact hcs
    · exact List.pairwise_cons.2 ⟨fun c hc => hb c (mem_eraseCell hc), ih hcs⟩

theorem lookup_insertCell (a b : Nat) (v : Byte) (cs : List Host.Cell) :
    lookupCell b (insertCell a v cs) = if b = a then some v else lookupCell b cs := by
  induction cs with
  | nil => simp [insertCell, lookupCell]
  | cons d cs ih =>
    obtain ⟨c, w⟩ := d
    simp only [insertCell]
    split_ifs <;> simp_all [lookupCell]

/-- Nothing is listed at an address below every listed one. -/
theorem lookup_none_of_lt {b : Nat} {cs : List Host.Cell} (h : ∀ c ∈ cs, b < c.1) : lookupCell b cs = none := by
  induction cs with
  | nil => rfl
  | cons d cs ih =>
    obtain ⟨c, w⟩ := d
    have hb : b ≠ c := Nat.ne_of_lt (h (c, w) (by simp))
    simp only [lookupCell, if_neg hb]
    exact ih fun x hx => h x (List.mem_cons_of_mem _ hx)

theorem lookup_eraseCell (a b : Nat) {cs : List Host.Cell} (h : Rising cs) :
    lookupCell b (eraseCell a cs) = if b = a then none else lookupCell b cs := by
  induction cs with
  | nil => simp [eraseCell, lookupCell]
  | cons d cs ih =>
    obtain ⟨c, w⟩ := d
    obtain ⟨hc, hcs⟩ := List.pairwise_cons.1 h
    simp only [eraseCell]
    split_ifs with h1 h2 h2
    · subst h1 h2
      exact lookup_none_of_lt hc
    · subst h1
      simp [lookupCell, h2]
    · subst h2
      simp only [lookupCell, if_neg h1, ih hcs, if_pos]
    · simp only [lookupCell, ih hcs, if_neg h2]

@[simp] theorem writeByte_init (m : Memory) (a : Nat) (v : Byte) : (m.writeByte a v).init = m.init := by
  simp only [Memory.writeByte]
  split_ifs <;> rfl

@[simp] theorem writeByte_unlisted (m : Memory) (a b : Nat) (v : Byte) :
    (m.writeByte a v).unlisted b = m.unlisted b := by
  simp [Memory.unlisted]

/-- The one thing a store can do to a read: it changes its own address, inside DMEM. -/
theorem readByte_writeByte {m : Memory} (h : m.wf = true) (a b : Nat) (v : Byte) :
    (m.writeByte a v).readByte b = if b = a ∧ a < Config.dmemSize then v else m.readByte b := by
  obtain ⟨hr, -⟩ := (wf_iff m).1 h
  by_cases ha : a < Config.dmemSize
  · by_cases hv : v = m.unlisted a
    · by_cases hb : b = a <;>
        simp [Memory.readByte, Memory.writeByte, Memory.unlisted, ha, hv, hb, lookup_eraseCell _ _ hr]
    · by_cases hb : b = a <;> simp [Memory.readByte, Memory.writeByte, Memory.unlisted, ha, hb] <;>
        simp_all [Memory.unlisted, lookup_insertCell]
  · simp [Memory.writeByte, ha]

/-- A store keeps the canonical form. -/
theorem writeByte_wf {m : Memory} (h : m.wf = true) (a : Nat) (v : Byte) : (m.writeByte a v).wf = true := by
  obtain ⟨hr, hc⟩ := (wf_iff m).1 h
  refine (wf_iff _).2 ?_
  simp only [writeByte_unlisted]
  simp only [Memory.writeByte]
  split_ifs with ha hv
  · exact ⟨rising_eraseCell a hr, fun c h => hc c (mem_eraseCell h)⟩
  · refine ⟨rising_insertCell a v hr, fun c h => ?_⟩
    rcases mem_insertCell h with rfl | h
    · exact ⟨ha, hv⟩
    · exact hc c h
  · exact ⟨hr, hc⟩

theorem writeBytes_wf {m : Memory} (h : m.wf = true) (a : Nat) (bs : List Byte) : (m.writeBytes a bs).wf = true := by
  induction bs generalizing m a with
  | nil => exact h
  | cons v bs ih => exact ih (writeByte_wf h a v) (a + 1)

@[simp] theorem writeBytes_init (m : Memory) (a : Nat) (bs : List Byte) : (m.writeBytes a bs).init = m.init := by
  induction bs generalizing m a with
  | nil => rfl
  | cons v bs ih => simp [Memory.writeBytes, ih]

/-- A store of several bytes inside DMEM puts byte `i` at `a + i` and leaves every other place alone. -/
theorem readByte_writeBytes {m : Memory} (h : m.wf = true) {a : Nat} {bs : List Byte}
    (hr : a + bs.length ≤ Config.dmemSize) (b : Nat) :
    (m.writeBytes a bs).readByte b =
      if a ≤ b ∧ b < a + bs.length then bs.getD (b - a) 0 else m.readByte b := by
  induction bs generalizing m a with
  | nil =>
    rw [if_neg (by simp)]
    rfl
  | cons v bs ih =>
    simp only [List.length_cons] at hr ⊢
    rw [Memory.writeBytes, ih (writeByte_wf h a v) (by omega), readByte_writeByte h]
    by_cases h1 : b = a
    · subst h1
      rw [if_neg (by omega), if_pos ⟨rfl, by omega⟩, if_pos (by omega)]
      simp
    · by_cases h2 : a ≤ b ∧ b < a + (bs.length + 1)
      · rw [if_pos (by omega), if_pos h2, show b - a = (b - (a + 1)) + 1 by omega]
        simp
      · rw [if_neg (by omega), if_neg (by omega), if_neg h2]

@[simp] theorem readBytes_length (m : Memory) (a n : Nat) : (m.readBytes a n).length = n := by
  simp [Memory.readBytes]

theorem readBytes_getD (m : Memory) (a : Nat) {n i : Nat} (h : i < n) :
    (m.readBytes a n).getD i 0 = m.readByte (a + i) := by
  simp [Memory.readBytes, List.getD, h]

/-! ### Bits -/

theorem byteBit_setByteBit (v : Byte) (j k : Nat) (b : Bool) :
    byteBit (setByteBit v j b) k = if j % 8 = k % 8 then b else byteBit v k := by
  have key : ∀ v : BitVec 8, ∀ j : Fin 8, ∀ k : Fin 8, ∀ b : Bool,
      byteBit (setByteBit v j b) k = if j = k then b else byteBit v k := by
    intro v j k b
    fin_cases j <;> fin_cases k <;> cases b <;> simp [byteBit, setByteBit]
  have := key v ⟨j % 8, by omega⟩ ⟨k % 8, by omega⟩ b
  simpa [byteBit, setByteBit, Fin.ext_iff] using this

theorem writeBit_wf {m : Memory} (h : m.wf = true) (base k : Nat) (b : Bool) : (m.writeBit base k b).wf = true :=
  writeByte_wf h _ _

theorem writeBits_wf {m : Memory} (h : m.wf = true) (base p : Nat) (bit : Nat → Bool) (n : Nat) :
    (m.writeBits base p bit n).wf = true := by
  induction n with
  | zero => exact h
  | succ n ih => exact writeBit_wf ih _ _ _

@[simp] theorem writeBits_init (m : Memory) (base p : Nat) (bit : Nat → Bool) (n : Nat) :
    (m.writeBits base p bit n).init = m.init := by
  induction n with
  | zero => rfl
  | succ n ih => simp [Memory.writeBits, Memory.writeBit, ih]

/-- The one thing a bit store can do to a bit read from the same base. -/
theorem readBit_writeBit {m : Memory} (h : m.wf = true) {base j : Nat} (hj : base + j / 8 < Config.dmemSize) (k : Nat)
    (b : Bool) : (m.writeBit base j b).readBit base k = if j = k then b else m.readBit base k := by
  rw [Memory.readBit, Memory.writeBit, readByte_writeByte h]
  by_cases hq : k / 8 = j / 8
  · rw [if_pos ⟨by omega, hj⟩, byteBit_setByteBit]
    by_cases hjk : j = k
    · simp [hjk]
    · rw [if_neg (by omega), if_neg hjk, Memory.readBit, hq]
  · rw [if_neg (by omega), if_neg (by rintro rfl; exact hq rfl), Memory.readBit]

/-- A bit store leaves every other byte alone. -/
theorem readByte_writeBit {m : Memory} (h : m.wf = true) {base j a : Nat} (ha : a ≠ base + j / 8) (b : Bool) :
    (m.writeBit base j b).readByte a = m.readByte a := by
  rw [Memory.writeBit, readByte_writeByte h, if_neg (fun hh => ha hh.1)]

/-- A store of `n` bits sets bit `p + i` to `bit i` and leaves every other bit of the stream alone. -/
theorem readBit_writeBits {m : Memory} (h : m.wf = true) {base p n : Nat} (bit : Nat → Bool)
    (hr : n = 0 ∨ base + (p + n - 1) / 8 < Config.dmemSize) (k : Nat) :
    (m.writeBits base p bit n).readBit base k =
      if p ≤ k ∧ k < p + n then bit (k - p) else m.readBit base k := by
  induction n with
  | zero =>
    rw [if_neg (by omega)]
    rfl
  | succ n ih =>
    have hlast : base + (p + n) / 8 < Config.dmemSize := by omega
    rw [Memory.writeBits, readBit_writeBit (writeBits_wf h base p bit n) hlast, ih (by omega)]
    by_cases hk : p + n = k
    · subst hk
      rw [if_pos rfl, if_pos (by omega), Nat.add_sub_cancel_left]
    · rw [if_neg hk]
      by_cases h2 : p ≤ k ∧ k < p + n
      · rw [if_pos h2, if_pos (by omega)]
      · rw [if_neg h2, if_neg (by omega)]

/-- A store of `n` bits leaves every byte it does not touch alone. -/
theorem readByte_writeBits {m : Memory} (h : m.wf = true) {base p n a : Nat} (bit : Nat → Bool)
    (ha : n = 0 ∨ a < base + p / 8 ∨ base + (p + n - 1) / 8 < a) :
    (m.writeBits base p bit n).readByte a = m.readByte a := by
  induction n with
  | zero => rfl
  | succ n ih =>
    rw [Memory.writeBits, readByte_writeBit (writeBits_wf h base p bit n) (by omega), ih (by omega)]

end Sys2Proof.Laws
end

