-- ==== Sys2Proof/Laws/State.lean ====
section
/-! SUPPORT. What each named update of State leaves in each field, true by rfl, and how the updates compose with the
record queue's `emit`. -/

namespace Sys2Proof.Laws

open Sys2Proof Sys2Proof.Machine

/-! ### setRes -/

@[simp] theorem setRes_params (v : Nat) (s : State) : (setRes v s).params = s.params := rfl
@[simp] theorem setRes_bus (v : Nat) (s : State) : (setRes v s).bus = s.bus := rfl
@[simp] theorem setRes_busOut (v : Nat) (s : State) : (setRes v s).busOut = s.busOut := rfl
@[simp] theorem setRes_err (v : Nat) (s : State) : (setRes v s).err = s.err := rfl
@[simp] theorem setRes_recqOvf (v : Nat) (s : State) : (setRes v s).recqOvf = s.recqOvf := rfl
@[simp] theorem setRes_syncLost (v : Nat) (s : State) : (setRes v s).syncLost = s.syncLost := rfl
@[simp] theorem setRes_sfDone (v : Nat) (s : State) : (setRes v s).sfDone = s.sfDone := rfl
@[simp] theorem setRes_hasDone (v : Nat) (s : State) : (setRes v s).hasDone = s.hasDone := rfl
@[simp] theorem setRes_hasFail (v : Nat) (s : State) : (setRes v s).hasFail = s.hasFail := rfl
@[simp] theorem setRes_errCause (v : Nat) (s : State) : (setRes v s).errCause = s.errCause := rfl
@[simp] theorem setRes_errCmd (v : Nat) (s : State) : (setRes v s).errCmd = s.errCmd := rfl
@[simp] theorem setRes_irqEn (v : Nat) (s : State) : (setRes v s).irqEn = s.irqEn := rfl
@[simp] theorem setRes_inv (v : Nat) (s : State) : (setRes v s).inv = s.inv := rfl
@[simp] theorem setRes_eq (v : Nat) (s : State) : (setRes v s).eq = s.eq := rfl
@[simp] theorem setRes_arg0 (v : Nat) (s : State) : (setRes v s).arg0 = s.arg0 := rfl
@[simp] theorem setRes_arg1 (v : Nat) (s : State) : (setRes v s).arg1 = s.arg1 := rfl
@[simp] theorem setRes_arg2 (v : Nat) (s : State) : (setRes v s).arg2 = s.arg2 := rfl
@[simp] theorem setRes_res (v : Nat) (s : State) : (setRes v s).res = BitVec.ofNat 64 v := rfl
@[simp] theorem setRes_bcBase (v : Nat) (s : State) : (setRes v s).bcBase = s.bcBase := rfl
@[simp] theorem setRes_bcLen (v : Nat) (s : State) : (setRes v s).bcLen = s.bcLen := rfl
@[simp] theorem setRes_bcPos (v : Nat) (s : State) : (setRes v s).bcPos = s.bcPos := rfl
@[simp] theorem setRes_bwBase (v : Nat) (s : State) : (setRes v s).bwBase = s.bwBase := rfl
@[simp] theorem setRes_bwCap (v : Nat) (s : State) : (setRes v s).bwCap = s.bwCap := rfl
@[simp] theorem setRes_bwPos (v : Nat) (s : State) : (setRes v s).bwPos = s.bwPos := rfl
@[simp] theorem setRes_crc (v : Nat) (s : State) : (setRes v s).crc = s.crc := rfl
@[simp] theorem setRes_dmxCfg (v : Nat) (s : State) : (setRes v s).dmxCfg = s.dmxCfg := rfl
@[simp] theorem setRes_cntOk (v : Nat) (s : State) : (setRes v s).cntOk = s.cntOk := rfl
@[simp] theorem setRes_cntErr (v : Nat) (s : State) : (setRes v s).cntErr = s.cntErr := rfl
@[simp] theorem setRes_cntSkip (v : Nat) (s : State) : (setRes v s).cntSkip = s.cntSkip := rfl
@[simp] theorem setRes_cntDrop (v : Nat) (s : State) : (setRes v s).cntDrop = s.cntDrop := rfl
@[simp] theorem setRes_ctxWeek (v : Nat) (s : State) : (setRes v s).ctxWeek = s.ctxWeek := rfl
@[simp] theorem setRes_ctxTow (v : Nat) (s : State) : (setRes v s).ctxTow = s.ctxTow := rfl
@[simp] theorem setRes_recRegs (v : Nat) (s : State) : (setRes v s).recRegs = s.recRegs := rfl
@[simp] theorem setRes_pending (v : Nat) (s : State) : (setRes v s).pending = s.pending := rfl
@[simp] theorem setRes_bssTable (v : Nat) (s : State) : (setRes v s).bssTable = s.bssTable := rfl
@[simp] theorem setRes_bssTow (v : Nat) (s : State) : (setRes v s).bssTow = s.bssTow := rfl
@[simp] theorem setRes_queue (v : Nat) (s : State) : (setRes v s).queue = s.queue := rfl
@[simp] theorem setRes_emitted (v : Nat) (s : State) : (setRes v s).emitted = s.emitted := rfl
@[simp] theorem setRes_sfaBase (v : Nat) (s : State) : (setRes v s).sfaBase = s.sfaBase := rfl
@[simp] theorem setRes_sfaN (v : Nat) (s : State) : (setRes v s).sfaN = s.sfaN := rfl
@[simp] theorem setRes_sfaPrn (v : Nat) (s : State) : (setRes v s).sfaPrn = s.sfaPrn := rfl
@[simp] theorem setRes_sfaVendor (v : Nat) (s : State) : (setRes v s).sfaVendor = s.sfaVendor := rfl
@[simp] theorem setRes_hasDst (v : Nat) (s : State) : (setRes v s).hasDst = s.hasDst := rfl
@[simp] theorem setRes_hasSlots (v : Nat) (s : State) : (setRes v s).hasSlots = s.hasSlots := rfl
@[simp] theorem setRes_memAddr (v : Nat) (s : State) : (setRes v s).memAddr = s.memAddr := rfl
@[simp] theorem setRes_mem (v : Nat) (s : State) : (setRes v s).mem = s.mem := rfl

/-! ### advanceCursor -/

@[simp] theorem advanceCursor_params (n : Nat) (s : State) : (advanceCursor n s).params = s.params := rfl
@[simp] theorem advanceCursor_bus (n : Nat) (s : State) : (advanceCursor n s).bus = s.bus := rfl
@[simp] theorem advanceCursor_busOut (n : Nat) (s : State) : (advanceCursor n s).busOut = s.busOut := rfl
@[simp] theorem advanceCursor_err (n : Nat) (s : State) : (advanceCursor n s).err = s.err := rfl
@[simp] theorem advanceCursor_recqOvf (n : Nat) (s : State) : (advanceCursor n s).recqOvf = s.recqOvf := rfl
@[simp] theorem advanceCursor_syncLost (n : Nat) (s : State) : (advanceCursor n s).syncLost = s.syncLost := rfl
@[simp] theorem advanceCursor_sfDone (n : Nat) (s : State) : (advanceCursor n s).sfDone = s.sfDone := rfl
@[simp] theorem advanceCursor_hasDone (n : Nat) (s : State) : (advanceCursor n s).hasDone = s.hasDone := rfl
@[simp] theorem advanceCursor_hasFail (n : Nat) (s : State) : (advanceCursor n s).hasFail = s.hasFail := rfl
@[simp] theorem advanceCursor_errCause (n : Nat) (s : State) : (advanceCursor n s).errCause = s.errCause := rfl
@[simp] theorem advanceCursor_errCmd (n : Nat) (s : State) : (advanceCursor n s).errCmd = s.errCmd := rfl
@[simp] theorem advanceCursor_irqEn (n : Nat) (s : State) : (advanceCursor n s).irqEn = s.irqEn := rfl
@[simp] theorem advanceCursor_inv (n : Nat) (s : State) : (advanceCursor n s).inv = s.inv := rfl
@[simp] theorem advanceCursor_eq (n : Nat) (s : State) : (advanceCursor n s).eq = s.eq := rfl
@[simp] theorem advanceCursor_arg0 (n : Nat) (s : State) : (advanceCursor n s).arg0 = s.arg0 := rfl
@[simp] theorem advanceCursor_arg1 (n : Nat) (s : State) : (advanceCursor n s).arg1 = s.arg1 := rfl
@[simp] theorem advanceCursor_arg2 (n : Nat) (s : State) : (advanceCursor n s).arg2 = s.arg2 := rfl
@[simp] theorem advanceCursor_res (n : Nat) (s : State) : (advanceCursor n s).res = s.res := rfl
@[simp] theorem advanceCursor_bcBase (n : Nat) (s : State) : (advanceCursor n s).bcBase = s.bcBase := rfl
@[simp] theorem advanceCursor_bcLen (n : Nat) (s : State) : (advanceCursor n s).bcLen = s.bcLen := rfl
@[simp] theorem advanceCursor_bcPos (n : Nat) (s : State) : (advanceCursor n s).bcPos = BitVec.ofNat 32 (s.bcPos.toNat + n) := rfl
@[simp] theorem advanceCursor_bwBase (n : Nat) (s : State) : (advanceCursor n s).bwBase = s.bwBase := rfl
@[simp] theorem advanceCursor_bwCap (n : Nat) (s : State) : (advanceCursor n s).bwCap = s.bwCap := rfl
@[simp] theorem advanceCursor_bwPos (n : Nat) (s : State) : (advanceCursor n s).bwPos = s.bwPos := rfl
@[simp] theorem advanceCursor_crc (n : Nat) (s : State) : (advanceCursor n s).crc = s.crc := rfl
@[simp] theorem advanceCursor_dmxCfg (n : Nat) (s : State) : (advanceCursor n s).dmxCfg = s.dmxCfg := rfl
@[simp] theorem advanceCursor_cntOk (n : Nat) (s : State) : (advanceCursor n s).cntOk = s.cntOk := rfl
@[simp] theorem advanceCursor_cntErr (n : Nat) (s : State) : (advanceCursor n s).cntErr = s.cntErr := rfl
@[simp] theorem advanceCursor_cntSkip (n : Nat) (s : State) : (advanceCursor n s).cntSkip = s.cntSkip := rfl
@[simp] theorem advanceCursor_cntDrop (n : Nat) (s : State) : (advanceCursor n s).cntDrop = s.cntDrop := rfl
@[simp] theorem advanceCursor_ctxWeek (n : Nat) (s : State) : (advanceCursor n s).ctxWeek = s.ctxWeek := rfl
@[simp] theorem advanceCursor_ctxTow (n : Nat) (s : State) : (advanceCursor n s).ctxTow = s.ctxTow := rfl
@[simp] theorem advanceCursor_recRegs (n : Nat) (s : State) : (advanceCursor n s).recRegs = s.recRegs := rfl
@[simp] theorem advanceCursor_pending (n : Nat) (s : State) : (advanceCursor n s).pending = s.pending := rfl
@[simp] theorem advanceCursor_bssTable (n : Nat) (s : State) : (advanceCursor n s).bssTable = s.bssTable := rfl
@[simp] theorem advanceCursor_bssTow (n : Nat) (s : State) : (advanceCursor n s).bssTow = s.bssTow := rfl
@[simp] theorem advanceCursor_queue (n : Nat) (s : State) : (advanceCursor n s).queue = s.queue := rfl
@[simp] theorem advanceCursor_emitted (n : Nat) (s : State) : (advanceCursor n s).emitted = s.emitted := rfl
@[simp] theorem advanceCursor_sfaBase (n : Nat) (s : State) : (advanceCursor n s).sfaBase = s.sfaBase := rfl
@[simp] theorem advanceCursor_sfaN (n : Nat) (s : State) : (advanceCursor n s).sfaN = s.sfaN := rfl
@[simp] theorem advanceCursor_sfaPrn (n : Nat) (s : State) : (advanceCursor n s).sfaPrn = s.sfaPrn := rfl
@[simp] theorem advanceCursor_sfaVendor (n : Nat) (s : State) : (advanceCursor n s).sfaVendor = s.sfaVendor := rfl
@[simp] theorem advanceCursor_hasDst (n : Nat) (s : State) : (advanceCursor n s).hasDst = s.hasDst := rfl
@[simp] theorem advanceCursor_hasSlots (n : Nat) (s : State) : (advanceCursor n s).hasSlots = s.hasSlots := rfl
@[simp] theorem advanceCursor_memAddr (n : Nat) (s : State) : (advanceCursor n s).memAddr = s.memAddr := rfl
@[simp] theorem advanceCursor_mem (n : Nat) (s : State) : (advanceCursor n s).mem = s.mem := rfl

/-! ### raiseCmdError -/

@[simp] theorem raiseCmdError_params (c : Cause) (w : Word) (s : State) : (raiseCmdError c w s).params = s.params := rfl
@[simp] theorem raiseCmdError_bus (c : Cause) (w : Word) (s : State) : (raiseCmdError c w s).bus = s.bus := rfl
@[simp] theorem raiseCmdError_busOut (c : Cause) (w : Word) (s : State) : (raiseCmdError c w s).busOut = s.busOut := rfl
@[simp] theorem raiseCmdError_err (c : Cause) (w : Word) (s : State) : (raiseCmdError c w s).err = true := rfl
@[simp] theorem raiseCmdError_recqOvf (c : Cause) (w : Word) (s : State) : (raiseCmdError c w s).recqOvf = s.recqOvf := rfl
@[simp] theorem raiseCmdError_syncLost (c : Cause) (w : Word) (s : State) : (raiseCmdError c w s).syncLost = s.syncLost := rfl
@[simp] theorem raiseCmdError_sfDone (c : Cause) (w : Word) (s : State) : (raiseCmdError c w s).sfDone = s.sfDone := rfl
@[simp] theorem raiseCmdError_hasDone (c : Cause) (w : Word) (s : State) : (raiseCmdError c w s).hasDone = s.hasDone := rfl
@[simp] theorem raiseCmdError_hasFail (c : Cause) (w : Word) (s : State) : (raiseCmdError c w s).hasFail = s.hasFail := rfl
@[simp] theorem raiseCmdError_errCause (c : Cause) (w : Word) (s : State) : (raiseCmdError c w s).errCause = if s.err then s.errCause else c := rfl
@[simp] theorem raiseCmdError_errCmd (c : Cause) (w : Word) (s : State) : (raiseCmdError c w s).errCmd = if s.err then s.errCmd else w := rfl
@[simp] theorem raiseCmdError_irqEn (c : Cause) (w : Word) (s : State) : (raiseCmdError c w s).irqEn = s.irqEn := rfl
@[simp] theorem raiseCmdError_inv (c : Cause) (w : Word) (s : State) : (raiseCmdError c w s).inv = s.inv := rfl
@[simp] theorem raiseCmdError_eq (c : Cause) (w : Word) (s : State) : (raiseCmdError c w s).eq = s.eq := rfl
@[simp] theorem raiseCmdError_arg0 (c : Cause) (w : Word) (s : State) : (raiseCmdError c w s).arg0 = s.arg0 := rfl
@[simp] theorem raiseCmdError_arg1 (c : Cause) (w : Word) (s : State) : (raiseCmdError c w s).arg1 = s.arg1 := rfl
@[simp] theorem raiseCmdError_arg2 (c : Cause) (w : Word) (s : State) : (raiseCmdError c w s).arg2 = s.arg2 := rfl
@[simp] theorem raiseCmdError_res (c : Cause) (w : Word) (s : State) : (raiseCmdError c w s).res = s.res := rfl
@[simp] theorem raiseCmdError_bcBase (c : Cause) (w : Word) (s : State) : (raiseCmdError c w s).bcBase = s.bcBase := rfl
@[simp] theorem raiseCmdError_bcLen (c : Cause) (w : Word) (s : State) : (raiseCmdError c w s).bcLen = s.bcLen := rfl
@[simp] theorem raiseCmdError_bcPos (c : Cause) (w : Word) (s : State) : (raiseCmdError c w s).bcPos = s.bcPos := rfl
@[simp] theorem raiseCmdError_bwBase (c : Cause) (w : Word) (s : State) : (raiseCmdError c w s).bwBase = s.bwBase := rfl
@[simp] theorem raiseCmdError_bwCap (c : Cause) (w : Word) (s : State) : (raiseCmdError c w s).bwCap = s.bwCap := rfl
@[simp] theorem raiseCmdError_bwPos (c : Cause) (w : Word) (s : State) : (raiseCmdError c w s).bwPos = s.bwPos := rfl
@[simp] theorem raiseCmdError_crc (c : Cause) (w : Word) (s : State) : (raiseCmdError c w s).crc = s.crc := rfl
@[simp] theorem raiseCmdError_dmxCfg (c : Cause) (w : Word) (s : State) : (raiseCmdError c w s).dmxCfg = s.dmxCfg := rfl
@[simp] theorem raiseCmdError_cntOk (c : Cause) (w : Word) (s : State) : (raiseCmdError c w s).cntOk = s.cntOk := rfl
@[simp] theorem raiseCmdError_cntErr (c : Cause) (w : Word) (s : State) : (raiseCmdError c w s).cntErr = s.cntErr := rfl
@[simp] theorem raiseCmdError_cntSkip (c : Cause) (w : Word) (s : State) : (raiseCmdError c w s).cntSkip = s.cntSkip := rfl
@[simp] theorem raiseCmdError_cntDrop (c : Cause) (w : Word) (s : State) : (raiseCmdError c w s).cntDrop = s.cntDrop := rfl
@[simp] theorem raiseCmdError_ctxWeek (c : Cause) (w : Word) (s : State) : (raiseCmdError c w s).ctxWeek = s.ctxWeek := rfl
@[simp] theorem raiseCmdError_ctxTow (c : Cause) (w : Word) (s : State) : (raiseCmdError c w s).ctxTow = s.ctxTow := rfl
@[simp] theorem raiseCmdError_recRegs (c : Cause) (w : Word) (s : State) : (raiseCmdError c w s).recRegs = s.recRegs := rfl
@[simp] theorem raiseCmdError_pending (c : Cause) (w : Word) (s : State) : (raiseCmdError c w s).pending = s.pending := rfl
@[simp] theorem raiseCmdError_bssTable (c : Cause) (w : Word) (s : State) : (raiseCmdError c w s).bssTable = s.bssTable := rfl
@[simp] theorem raiseCmdError_bssTow (c : Cause) (w : Word) (s : State) : (raiseCmdError c w s).bssTow = s.bssTow := rfl
@[simp] theorem raiseCmdError_queue (c : Cause) (w : Word) (s : State) : (raiseCmdError c w s).queue = s.queue := rfl
@[simp] theorem raiseCmdError_emitted (c : Cause) (w : Word) (s : State) : (raiseCmdError c w s).emitted = s.emitted := rfl
@[simp] theorem raiseCmdError_sfaBase (c : Cause) (w : Word) (s : State) : (raiseCmdError c w s).sfaBase = s.sfaBase := rfl
@[simp] theorem raiseCmdError_sfaN (c : Cause) (w : Word) (s : State) : (raiseCmdError c w s).sfaN = s.sfaN := rfl
@[simp] theorem raiseCmdError_sfaPrn (c : Cause) (w : Word) (s : State) : (raiseCmdError c w s).sfaPrn = s.sfaPrn := rfl
@[simp] theorem raiseCmdError_sfaVendor (c : Cause) (w : Word) (s : State) : (raiseCmdError c w s).sfaVendor = s.sfaVendor := rfl
@[simp] theorem raiseCmdError_hasDst (c : Cause) (w : Word) (s : State) : (raiseCmdError c w s).hasDst = s.hasDst := rfl
@[simp] theorem raiseCmdError_hasSlots (c : Cause) (w : Word) (s : State) : (raiseCmdError c w s).hasSlots = s.hasSlots := rfl
@[simp] theorem raiseCmdError_memAddr (c : Cause) (w : Word) (s : State) : (raiseCmdError c w s).memAddr = s.memAddr := rfl
@[simp] theorem raiseCmdError_mem (c : Cause) (w : Word) (s : State) : (raiseCmdError c w s).mem = s.mem := rfl

/-! ### acknowledgeError -/

@[simp] theorem acknowledgeError_params (s : State) : (acknowledgeError s).params = s.params := rfl
@[simp] theorem acknowledgeError_bus (s : State) : (acknowledgeError s).bus = s.bus := rfl
@[simp] theorem acknowledgeError_busOut (s : State) : (acknowledgeError s).busOut = s.busOut := rfl
@[simp] theorem acknowledgeError_err (s : State) : (acknowledgeError s).err = false := rfl
@[simp] theorem acknowledgeError_recqOvf (s : State) : (acknowledgeError s).recqOvf = s.recqOvf := rfl
@[simp] theorem acknowledgeError_syncLost (s : State) : (acknowledgeError s).syncLost = s.syncLost := rfl
@[simp] theorem acknowledgeError_sfDone (s : State) : (acknowledgeError s).sfDone = s.sfDone := rfl
@[simp] theorem acknowledgeError_hasDone (s : State) : (acknowledgeError s).hasDone = s.hasDone := rfl
@[simp] theorem acknowledgeError_hasFail (s : State) : (acknowledgeError s).hasFail = s.hasFail := rfl
@[simp] theorem acknowledgeError_errCause (s : State) : (acknowledgeError s).errCause = Cause.none := rfl
@[simp] theorem acknowledgeError_errCmd (s : State) : (acknowledgeError s).errCmd = 0 := rfl
@[simp] theorem acknowledgeError_irqEn (s : State) : (acknowledgeError s).irqEn = s.irqEn := rfl
@[simp] theorem acknowledgeError_inv (s : State) : (acknowledgeError s).inv = s.inv := rfl
@[simp] theorem acknowledgeError_eq (s : State) : (acknowledgeError s).eq = s.eq := rfl
@[simp] theorem acknowledgeError_arg0 (s : State) : (acknowledgeError s).arg0 = s.arg0 := rfl
@[simp] theorem acknowledgeError_arg1 (s : State) : (acknowledgeError s).arg1 = s.arg1 := rfl
@[simp] theorem acknowledgeError_arg2 (s : State) : (acknowledgeError s).arg2 = s.arg2 := rfl
@[simp] theorem acknowledgeError_res (s : State) : (acknowledgeError s).res = s.res := rfl
@[simp] theorem acknowledgeError_bcBase (s : State) : (acknowledgeError s).bcBase = s.bcBase := rfl
@[simp] theorem acknowledgeError_bcLen (s : State) : (acknowledgeError s).bcLen = s.bcLen := rfl
@[simp] theorem acknowledgeError_bcPos (s : State) : (acknowledgeError s).bcPos = s.bcPos := rfl
@[simp] theorem acknowledgeError_bwBase (s : State) : (acknowledgeError s).bwBase = s.bwBase := rfl
@[simp] theorem acknowledgeError_bwCap (s : State) : (acknowledgeError s).bwCap = s.bwCap := rfl
@[simp] theorem acknowledgeError_bwPos (s : State) : (acknowledgeError s).bwPos = s.bwPos := rfl
@[simp] theorem acknowledgeError_crc (s : State) : (acknowledgeError s).crc = s.crc := rfl
@[simp] theorem acknowledgeError_dmxCfg (s : State) : (acknowledgeError s).dmxCfg = s.dmxCfg := rfl
@[simp] theorem acknowledgeError_cntOk (s : State) : (acknowledgeError s).cntOk = s.cntOk := rfl
@[simp] theorem acknowledgeError_cntErr (s : State) : (acknowledgeError s).cntErr = s.cntErr := rfl
@[simp] theorem acknowledgeError_cntSkip (s : State) : (acknowledgeError s).cntSkip = s.cntSkip := rfl
@[simp] theorem acknowledgeError_cntDrop (s : State) : (acknowledgeError s).cntDrop = s.cntDrop := rfl
@[simp] theorem acknowledgeError_ctxWeek (s : State) : (acknowledgeError s).ctxWeek = s.ctxWeek := rfl
@[simp] theorem acknowledgeError_ctxTow (s : State) : (acknowledgeError s).ctxTow = s.ctxTow := rfl
@[simp] theorem acknowledgeError_recRegs (s : State) : (acknowledgeError s).recRegs = s.recRegs := rfl
@[simp] theorem acknowledgeError_pending (s : State) : (acknowledgeError s).pending = s.pending := rfl
@[simp] theorem acknowledgeError_bssTable (s : State) : (acknowledgeError s).bssTable = s.bssTable := rfl
@[simp] theorem acknowledgeError_bssTow (s : State) : (acknowledgeError s).bssTow = s.bssTow := rfl
@[simp] theorem acknowledgeError_queue (s : State) : (acknowledgeError s).queue = s.queue := rfl
@[simp] theorem acknowledgeError_emitted (s : State) : (acknowledgeError s).emitted = s.emitted := rfl
@[simp] theorem acknowledgeError_sfaBase (s : State) : (acknowledgeError s).sfaBase = s.sfaBase := rfl
@[simp] theorem acknowledgeError_sfaN (s : State) : (acknowledgeError s).sfaN = s.sfaN := rfl
@[simp] theorem acknowledgeError_sfaPrn (s : State) : (acknowledgeError s).sfaPrn = s.sfaPrn := rfl
@[simp] theorem acknowledgeError_sfaVendor (s : State) : (acknowledgeError s).sfaVendor = s.sfaVendor := rfl
@[simp] theorem acknowledgeError_hasDst (s : State) : (acknowledgeError s).hasDst = s.hasDst := rfl
@[simp] theorem acknowledgeError_hasSlots (s : State) : (acknowledgeError s).hasSlots = s.hasSlots := rfl
@[simp] theorem acknowledgeError_memAddr (s : State) : (acknowledgeError s).memAddr = s.memAddr := rfl
@[simp] theorem acknowledgeError_mem (s : State) : (acknowledgeError s).mem = s.mem := rfl

/-! ### beginCommand -/

@[simp] theorem beginCommand_params (s : State) : (beginCommand s).params = s.params := rfl
@[simp] theorem beginCommand_bus (s : State) : (beginCommand s).bus = s.bus := rfl
@[simp] theorem beginCommand_busOut (s : State) : (beginCommand s).busOut = s.busOut := rfl
@[simp] theorem beginCommand_err (s : State) : (beginCommand s).err = s.err := rfl
@[simp] theorem beginCommand_recqOvf (s : State) : (beginCommand s).recqOvf = s.recqOvf := rfl
@[simp] theorem beginCommand_syncLost (s : State) : (beginCommand s).syncLost = s.syncLost := rfl
@[simp] theorem beginCommand_sfDone (s : State) : (beginCommand s).sfDone = s.sfDone := rfl
@[simp] theorem beginCommand_hasDone (s : State) : (beginCommand s).hasDone = s.hasDone := rfl
@[simp] theorem beginCommand_hasFail (s : State) : (beginCommand s).hasFail = s.hasFail := rfl
@[simp] theorem beginCommand_errCause (s : State) : (beginCommand s).errCause = s.errCause := rfl
@[simp] theorem beginCommand_errCmd (s : State) : (beginCommand s).errCmd = s.errCmd := rfl
@[simp] theorem beginCommand_irqEn (s : State) : (beginCommand s).irqEn = s.irqEn := rfl
@[simp] theorem beginCommand_inv (s : State) : (beginCommand s).inv = s.inv := rfl
@[simp] theorem beginCommand_eq (s : State) : (beginCommand s).eq = s.eq := rfl
@[simp] theorem beginCommand_arg0 (s : State) : (beginCommand s).arg0 = s.arg0 := rfl
@[simp] theorem beginCommand_arg1 (s : State) : (beginCommand s).arg1 = s.arg1 := rfl
@[simp] theorem beginCommand_arg2 (s : State) : (beginCommand s).arg2 = s.arg2 := rfl
@[simp] theorem beginCommand_res (s : State) : (beginCommand s).res = s.res := rfl
@[simp] theorem beginCommand_bcBase (s : State) : (beginCommand s).bcBase = s.bcBase := rfl
@[simp] theorem beginCommand_bcLen (s : State) : (beginCommand s).bcLen = s.bcLen := rfl
@[simp] theorem beginCommand_bcPos (s : State) : (beginCommand s).bcPos = s.bcPos := rfl
@[simp] theorem beginCommand_bwBase (s : State) : (beginCommand s).bwBase = s.bwBase := rfl
@[simp] theorem beginCommand_bwCap (s : State) : (beginCommand s).bwCap = s.bwCap := rfl
@[simp] theorem beginCommand_bwPos (s : State) : (beginCommand s).bwPos = s.bwPos := rfl
@[simp] theorem beginCommand_crc (s : State) : (beginCommand s).crc = s.crc := rfl
@[simp] theorem beginCommand_dmxCfg (s : State) : (beginCommand s).dmxCfg = s.dmxCfg := rfl
@[simp] theorem beginCommand_cntOk (s : State) : (beginCommand s).cntOk = s.cntOk := rfl
@[simp] theorem beginCommand_cntErr (s : State) : (beginCommand s).cntErr = s.cntErr := rfl
@[simp] theorem beginCommand_cntSkip (s : State) : (beginCommand s).cntSkip = s.cntSkip := rfl
@[simp] theorem beginCommand_cntDrop (s : State) : (beginCommand s).cntDrop = s.cntDrop := rfl
@[simp] theorem beginCommand_ctxWeek (s : State) : (beginCommand s).ctxWeek = s.ctxWeek := rfl
@[simp] theorem beginCommand_ctxTow (s : State) : (beginCommand s).ctxTow = s.ctxTow := rfl
@[simp] theorem beginCommand_recRegs (s : State) : (beginCommand s).recRegs = s.recRegs := rfl
@[simp] theorem beginCommand_pending (s : State) : (beginCommand s).pending = s.pending := rfl
@[simp] theorem beginCommand_bssTable (s : State) : (beginCommand s).bssTable = s.bssTable := rfl
@[simp] theorem beginCommand_bssTow (s : State) : (beginCommand s).bssTow = s.bssTow := rfl
@[simp] theorem beginCommand_queue (s : State) : (beginCommand s).queue = s.queue := rfl
@[simp] theorem beginCommand_emitted (s : State) : (beginCommand s).emitted = 0 := rfl
@[simp] theorem beginCommand_sfaBase (s : State) : (beginCommand s).sfaBase = s.sfaBase := rfl
@[simp] theorem beginCommand_sfaN (s : State) : (beginCommand s).sfaN = s.sfaN := rfl
@[simp] theorem beginCommand_sfaPrn (s : State) : (beginCommand s).sfaPrn = s.sfaPrn := rfl
@[simp] theorem beginCommand_sfaVendor (s : State) : (beginCommand s).sfaVendor = s.sfaVendor := rfl
@[simp] theorem beginCommand_hasDst (s : State) : (beginCommand s).hasDst = s.hasDst := rfl
@[simp] theorem beginCommand_hasSlots (s : State) : (beginCommand s).hasSlots = s.hasSlots := rfl
@[simp] theorem beginCommand_memAddr (s : State) : (beginCommand s).memAddr = s.memAddr := rfl
@[simp] theorem beginCommand_mem (s : State) : (beginCommand s).mem = s.mem := rfl

/-! ### setSlot -/

@[simp] theorem setSlot_params (mid : Nat) (g : Option HasGroup) (s : State) : (setSlot mid g s).params = s.params := rfl
@[simp] theorem setSlot_bus (mid : Nat) (g : Option HasGroup) (s : State) : (setSlot mid g s).bus = s.bus := rfl
@[simp] theorem setSlot_busOut (mid : Nat) (g : Option HasGroup) (s : State) : (setSlot mid g s).busOut = s.busOut := rfl
@[simp] theorem setSlot_err (mid : Nat) (g : Option HasGroup) (s : State) : (setSlot mid g s).err = s.err := rfl
@[simp] theorem setSlot_recqOvf (mid : Nat) (g : Option HasGroup) (s : State) : (setSlot mid g s).recqOvf = s.recqOvf := rfl
@[simp] theorem setSlot_syncLost (mid : Nat) (g : Option HasGroup) (s : State) : (setSlot mid g s).syncLost = s.syncLost := rfl
@[simp] theorem setSlot_sfDone (mid : Nat) (g : Option HasGroup) (s : State) : (setSlot mid g s).sfDone = s.sfDone := rfl
@[simp] theorem setSlot_hasDone (mid : Nat) (g : Option HasGroup) (s : State) : (setSlot mid g s).hasDone = s.hasDone := rfl
@[simp] theorem setSlot_hasFail (mid : Nat) (g : Option HasGroup) (s : State) : (setSlot mid g s).hasFail = s.hasFail := rfl
@[simp] theorem setSlot_errCause (mid : Nat) (g : Option HasGroup) (s : State) : (setSlot mid g s).errCause = s.errCause := rfl
@[simp] theorem setSlot_errCmd (mid : Nat) (g : Option HasGroup) (s : State) : (setSlot mid g s).errCmd = s.errCmd := rfl
@[simp] theorem setSlot_irqEn (mid : Nat) (g : Option HasGroup) (s : State) : (setSlot mid g s).irqEn = s.irqEn := rfl
@[simp] theorem setSlot_inv (mid : Nat) (g : Option HasGroup) (s : State) : (setSlot mid g s).inv = s.inv := rfl
@[simp] theorem setSlot_eq (mid : Nat) (g : Option HasGroup) (s : State) : (setSlot mid g s).eq = s.eq := rfl
@[simp] theorem setSlot_arg0 (mid : Nat) (g : Option HasGroup) (s : State) : (setSlot mid g s).arg0 = s.arg0 := rfl
@[simp] theorem setSlot_arg1 (mid : Nat) (g : Option HasGroup) (s : State) : (setSlot mid g s).arg1 = s.arg1 := rfl
@[simp] theorem setSlot_arg2 (mid : Nat) (g : Option HasGroup) (s : State) : (setSlot mid g s).arg2 = s.arg2 := rfl
@[simp] theorem setSlot_res (mid : Nat) (g : Option HasGroup) (s : State) : (setSlot mid g s).res = s.res := rfl
@[simp] theorem setSlot_bcBase (mid : Nat) (g : Option HasGroup) (s : State) : (setSlot mid g s).bcBase = s.bcBase := rfl
@[simp] theorem setSlot_bcLen (mid : Nat) (g : Option HasGroup) (s : State) : (setSlot mid g s).bcLen = s.bcLen := rfl
@[simp] theorem setSlot_bcPos (mid : Nat) (g : Option HasGroup) (s : State) : (setSlot mid g s).bcPos = s.bcPos := rfl
@[simp] theorem setSlot_bwBase (mid : Nat) (g : Option HasGroup) (s : State) : (setSlot mid g s).bwBase = s.bwBase := rfl
@[simp] theorem setSlot_bwCap (mid : Nat) (g : Option HasGroup) (s : State) : (setSlot mid g s).bwCap = s.bwCap := rfl
@[simp] theorem setSlot_bwPos (mid : Nat) (g : Option HasGroup) (s : State) : (setSlot mid g s).bwPos = s.bwPos := rfl
@[simp] theorem setSlot_crc (mid : Nat) (g : Option HasGroup) (s : State) : (setSlot mid g s).crc = s.crc := rfl
@[simp] theorem setSlot_dmxCfg (mid : Nat) (g : Option HasGroup) (s : State) : (setSlot mid g s).dmxCfg = s.dmxCfg := rfl
@[simp] theorem setSlot_cntOk (mid : Nat) (g : Option HasGroup) (s : State) : (setSlot mid g s).cntOk = s.cntOk := rfl
@[simp] theorem setSlot_cntErr (mid : Nat) (g : Option HasGroup) (s : State) : (setSlot mid g s).cntErr = s.cntErr := rfl
@[simp] theorem setSlot_cntSkip (mid : Nat) (g : Option HasGroup) (s : State) : (setSlot mid g s).cntSkip = s.cntSkip := rfl
@[simp] theorem setSlot_cntDrop (mid : Nat) (g : Option HasGroup) (s : State) : (setSlot mid g s).cntDrop = s.cntDrop := rfl
@[simp] theorem setSlot_ctxWeek (mid : Nat) (g : Option HasGroup) (s : State) : (setSlot mid g s).ctxWeek = s.ctxWeek := rfl
@[simp] theorem setSlot_ctxTow (mid : Nat) (g : Option HasGroup) (s : State) : (setSlot mid g s).ctxTow = s.ctxTow := rfl
@[simp] theorem setSlot_recRegs (mid : Nat) (g : Option HasGroup) (s : State) : (setSlot mid g s).recRegs = s.recRegs := rfl
@[simp] theorem setSlot_pending (mid : Nat) (g : Option HasGroup) (s : State) : (setSlot mid g s).pending = s.pending := rfl
@[simp] theorem setSlot_bssTable (mid : Nat) (g : Option HasGroup) (s : State) : (setSlot mid g s).bssTable = s.bssTable := rfl
@[simp] theorem setSlot_bssTow (mid : Nat) (g : Option HasGroup) (s : State) : (setSlot mid g s).bssTow = s.bssTow := rfl
@[simp] theorem setSlot_queue (mid : Nat) (g : Option HasGroup) (s : State) : (setSlot mid g s).queue = s.queue := rfl
@[simp] theorem setSlot_emitted (mid : Nat) (g : Option HasGroup) (s : State) : (setSlot mid g s).emitted = s.emitted := rfl
@[simp] theorem setSlot_sfaBase (mid : Nat) (g : Option HasGroup) (s : State) : (setSlot mid g s).sfaBase = s.sfaBase := rfl
@[simp] theorem setSlot_sfaN (mid : Nat) (g : Option HasGroup) (s : State) : (setSlot mid g s).sfaN = s.sfaN := rfl
@[simp] theorem setSlot_sfaPrn (mid : Nat) (g : Option HasGroup) (s : State) : (setSlot mid g s).sfaPrn = s.sfaPrn := rfl
@[simp] theorem setSlot_sfaVendor (mid : Nat) (g : Option HasGroup) (s : State) : (setSlot mid g s).sfaVendor = s.sfaVendor := rfl
@[simp] theorem setSlot_hasDst (mid : Nat) (g : Option HasGroup) (s : State) : (setSlot mid g s).hasDst = s.hasDst := rfl
@[simp] theorem setSlot_hasSlots (mid : Nat) (g : Option HasGroup) (s : State) : (setSlot mid g s).hasSlots = s.hasSlots.setIfInBounds (mid - 1) g := rfl
@[simp] theorem setSlot_memAddr (mid : Nat) (g : Option HasGroup) (s : State) : (setSlot mid g s).memAddr = s.memAddr := rfl
@[simp] theorem setSlot_mem (mid : Nat) (g : Option HasGroup) (s : State) : (setSlot mid g s).mem = s.mem := rfl

/-! ### skipByte -/

@[simp] theorem skipByte_params (rest : List Byte) (s : State) : (skipByte rest s).params = s.params := rfl
@[simp] theorem skipByte_bus (rest : List Byte) (s : State) : (skipByte rest s).bus = s.bus := rfl
@[simp] theorem skipByte_busOut (rest : List Byte) (s : State) : (skipByte rest s).busOut = s.busOut := rfl
@[simp] theorem skipByte_err (rest : List Byte) (s : State) : (skipByte rest s).err = s.err := rfl
@[simp] theorem skipByte_recqOvf (rest : List Byte) (s : State) : (skipByte rest s).recqOvf = s.recqOvf := rfl
@[simp] theorem skipByte_syncLost (rest : List Byte) (s : State) : (skipByte rest s).syncLost = true := rfl
@[simp] theorem skipByte_sfDone (rest : List Byte) (s : State) : (skipByte rest s).sfDone = s.sfDone := rfl
@[simp] theorem skipByte_hasDone (rest : List Byte) (s : State) : (skipByte rest s).hasDone = s.hasDone := rfl
@[simp] theorem skipByte_hasFail (rest : List Byte) (s : State) : (skipByte rest s).hasFail = s.hasFail := rfl
@[simp] theorem skipByte_errCause (rest : List Byte) (s : State) : (skipByte rest s).errCause = s.errCause := rfl
@[simp] theorem skipByte_errCmd (rest : List Byte) (s : State) : (skipByte rest s).errCmd = s.errCmd := rfl
@[simp] theorem skipByte_irqEn (rest : List Byte) (s : State) : (skipByte rest s).irqEn = s.irqEn := rfl
@[simp] theorem skipByte_inv (rest : List Byte) (s : State) : (skipByte rest s).inv = s.inv := rfl
@[simp] theorem skipByte_eq (rest : List Byte) (s : State) : (skipByte rest s).eq = s.eq := rfl
@[simp] theorem skipByte_arg0 (rest : List Byte) (s : State) : (skipByte rest s).arg0 = s.arg0 := rfl
@[simp] theorem skipByte_arg1 (rest : List Byte) (s : State) : (skipByte rest s).arg1 = s.arg1 := rfl
@[simp] theorem skipByte_arg2 (rest : List Byte) (s : State) : (skipByte rest s).arg2 = s.arg2 := rfl
@[simp] theorem skipByte_res (rest : List Byte) (s : State) : (skipByte rest s).res = s.res := rfl
@[simp] theorem skipByte_bcBase (rest : List Byte) (s : State) : (skipByte rest s).bcBase = s.bcBase := rfl
@[simp] theorem skipByte_bcLen (rest : List Byte) (s : State) : (skipByte rest s).bcLen = s.bcLen := rfl
@[simp] theorem skipByte_bcPos (rest : List Byte) (s : State) : (skipByte rest s).bcPos = s.bcPos := rfl
@[simp] theorem skipByte_bwBase (rest : List Byte) (s : State) : (skipByte rest s).bwBase = s.bwBase := rfl
@[simp] theorem skipByte_bwCap (rest : List Byte) (s : State) : (skipByte rest s).bwCap = s.bwCap := rfl
@[simp] theorem skipByte_bwPos (rest : List Byte) (s : State) : (skipByte rest s).bwPos = s.bwPos := rfl
@[simp] theorem skipByte_crc (rest : List Byte) (s : State) : (skipByte rest s).crc = s.crc := rfl
@[simp] theorem skipByte_dmxCfg (rest : List Byte) (s : State) : (skipByte rest s).dmxCfg = s.dmxCfg := rfl
@[simp] theorem skipByte_cntOk (rest : List Byte) (s : State) : (skipByte rest s).cntOk = s.cntOk := rfl
@[simp] theorem skipByte_cntErr (rest : List Byte) (s : State) : (skipByte rest s).cntErr = s.cntErr := rfl
@[simp] theorem skipByte_cntSkip (rest : List Byte) (s : State) : (skipByte rest s).cntSkip = s.cntSkip + 1 := rfl
@[simp] theorem skipByte_cntDrop (rest : List Byte) (s : State) : (skipByte rest s).cntDrop = s.cntDrop := rfl
@[simp] theorem skipByte_ctxWeek (rest : List Byte) (s : State) : (skipByte rest s).ctxWeek = s.ctxWeek := rfl
@[simp] theorem skipByte_ctxTow (rest : List Byte) (s : State) : (skipByte rest s).ctxTow = s.ctxTow := rfl
@[simp] theorem skipByte_recRegs (rest : List Byte) (s : State) : (skipByte rest s).recRegs = s.recRegs := rfl
@[simp] theorem skipByte_pending (rest : List Byte) (s : State) : (skipByte rest s).pending = rest := rfl
@[simp] theorem skipByte_bssTable (rest : List Byte) (s : State) : (skipByte rest s).bssTable = s.bssTable := rfl
@[simp] theorem skipByte_bssTow (rest : List Byte) (s : State) : (skipByte rest s).bssTow = s.bssTow := rfl
@[simp] theorem skipByte_queue (rest : List Byte) (s : State) : (skipByte rest s).queue = s.queue := rfl
@[simp] theorem skipByte_emitted (rest : List Byte) (s : State) : (skipByte rest s).emitted = s.emitted := rfl
@[simp] theorem skipByte_sfaBase (rest : List Byte) (s : State) : (skipByte rest s).sfaBase = s.sfaBase := rfl
@[simp] theorem skipByte_sfaN (rest : List Byte) (s : State) : (skipByte rest s).sfaN = s.sfaN := rfl
@[simp] theorem skipByte_sfaPrn (rest : List Byte) (s : State) : (skipByte rest s).sfaPrn = s.sfaPrn := rfl
@[simp] theorem skipByte_sfaVendor (rest : List Byte) (s : State) : (skipByte rest s).sfaVendor = s.sfaVendor := rfl
@[simp] theorem skipByte_hasDst (rest : List Byte) (s : State) : (skipByte rest s).hasDst = s.hasDst := rfl
@[simp] theorem skipByte_hasSlots (rest : List Byte) (s : State) : (skipByte rest s).hasSlots = s.hasSlots := rfl
@[simp] theorem skipByte_memAddr (rest : List Byte) (s : State) : (skipByte rest s).memAddr = s.memAddr := rfl
@[simp] theorem skipByte_mem (rest : List Byte) (s : State) : (skipByte rest s).mem = s.mem := rfl

/-! ### softReset -/

@[simp] theorem softReset_params (s : State) : (softReset s).params = s.params := rfl
@[simp] theorem softReset_bus (s : State) : (softReset s).bus = s.bus := rfl
@[simp] theorem softReset_busOut (s : State) : (softReset s).busOut = s.busOut := rfl
@[simp] theorem softReset_err (s : State) : (softReset s).err = false := rfl
@[simp] theorem softReset_recqOvf (s : State) : (softReset s).recqOvf = false := rfl
@[simp] theorem softReset_syncLost (s : State) : (softReset s).syncLost = false := rfl
@[simp] theorem softReset_sfDone (s : State) : (softReset s).sfDone = false := rfl
@[simp] theorem softReset_hasDone (s : State) : (softReset s).hasDone = false := rfl
@[simp] theorem softReset_hasFail (s : State) : (softReset s).hasFail = false := rfl
@[simp] theorem softReset_errCause (s : State) : (softReset s).errCause = Cause.none := rfl
@[simp] theorem softReset_errCmd (s : State) : (softReset s).errCmd = 0 := rfl
@[simp] theorem softReset_irqEn (s : State) : (softReset s).irqEn = 0 := rfl
@[simp] theorem softReset_inv (s : State) : (softReset s).inv = false := rfl
@[simp] theorem softReset_eq (s : State) : (softReset s).eq = false := rfl
@[simp] theorem softReset_arg0 (s : State) : (softReset s).arg0 = 0 := rfl
@[simp] theorem softReset_arg1 (s : State) : (softReset s).arg1 = 0 := rfl
@[simp] theorem softReset_arg2 (s : State) : (softReset s).arg2 = 0 := rfl
@[simp] theorem softReset_res (s : State) : (softReset s).res = 0 := rfl
@[simp] theorem softReset_bcBase (s : State) : (softReset s).bcBase = 0 := rfl
@[simp] theorem softReset_bcLen (s : State) : (softReset s).bcLen = 0 := rfl
@[simp] theorem softReset_bcPos (s : State) : (softReset s).bcPos = 0 := rfl
@[simp] theorem softReset_bwBase (s : State) : (softReset s).bwBase = 0 := rfl
@[simp] theorem softReset_bwCap (s : State) : (softReset s).bwCap = 0 := rfl
@[simp] theorem softReset_bwPos (s : State) : (softReset s).bwPos = 0 := rfl
@[simp] theorem softReset_crc (s : State) : (softReset s).crc = s.params.crc24qInit := rfl
@[simp] theorem softReset_dmxCfg (s : State) : (softReset s).dmxCfg = DmxCfg.reset := rfl
@[simp] theorem softReset_cntOk (s : State) : (softReset s).cntOk = 0 := rfl
@[simp] theorem softReset_cntErr (s : State) : (softReset s).cntErr = 0 := rfl
@[simp] theorem softReset_cntSkip (s : State) : (softReset s).cntSkip = 0 := rfl
@[simp] theorem softReset_cntDrop (s : State) : (softReset s).cntDrop = 0 := rfl
@[simp] theorem softReset_ctxWeek (s : State) : (softReset s).ctxWeek = 0 := rfl
@[simp] theorem softReset_ctxTow (s : State) : (softReset s).ctxTow = 0 := rfl
@[simp] theorem softReset_recRegs (s : State) : (softReset s).recRegs = RecRegs.reset := rfl
@[simp] theorem softReset_pending (s : State) : (softReset s).pending = [] := rfl
@[simp] theorem softReset_bssTable (s : State) : (softReset s).bssTable = [] := rfl
@[simp] theorem softReset_bssTow (s : State) : (softReset s).bssTow = 0 := rfl
@[simp] theorem softReset_queue (s : State) : (softReset s).queue = [] := rfl
@[simp] theorem softReset_emitted (s : State) : (softReset s).emitted = 0 := rfl
@[simp] theorem softReset_sfaBase (s : State) : (softReset s).sfaBase = 0 := rfl
@[simp] theorem softReset_sfaN (s : State) : (softReset s).sfaN = 0 := rfl
@[simp] theorem softReset_sfaPrn (s : State) : (softReset s).sfaPrn = 0 := rfl
@[simp] theorem softReset_sfaVendor (s : State) : (softReset s).sfaVendor = 0 := rfl
@[simp] theorem softReset_hasDst (s : State) : (softReset s).hasDst = 0 := rfl
@[simp] theorem softReset_hasSlots (s : State) : (softReset s).hasSlots = Vector.replicate 31 none := rfl
@[simp] theorem softReset_memAddr (s : State) : (softReset s).memAddr = 0 := rfl
@[simp] theorem softReset_mem (s : State) : (softReset s).mem = s.mem := rfl

/-! ### powerOnReset -/

@[simp] theorem powerOnReset_params (s : State) : (powerOnReset s).params = s.params := rfl
@[simp] theorem powerOnReset_bus (s : State) : (powerOnReset s).bus = s.bus := rfl
@[simp] theorem powerOnReset_busOut (s : State) : (powerOnReset s).busOut = s.busOut := rfl
@[simp] theorem powerOnReset_err (s : State) : (powerOnReset s).err = false := rfl
@[simp] theorem powerOnReset_recqOvf (s : State) : (powerOnReset s).recqOvf = false := rfl
@[simp] theorem powerOnReset_syncLost (s : State) : (powerOnReset s).syncLost = false := rfl
@[simp] theorem powerOnReset_sfDone (s : State) : (powerOnReset s).sfDone = false := rfl
@[simp] theorem powerOnReset_hasDone (s : State) : (powerOnReset s).hasDone = false := rfl
@[simp] theorem powerOnReset_hasFail (s : State) : (powerOnReset s).hasFail = false := rfl
@[simp] theorem powerOnReset_errCause (s : State) : (powerOnReset s).errCause = Cause.none := rfl
@[simp] theorem powerOnReset_errCmd (s : State) : (powerOnReset s).errCmd = 0 := rfl
@[simp] theorem powerOnReset_irqEn (s : State) : (powerOnReset s).irqEn = 0 := rfl
@[simp] theorem powerOnReset_inv (s : State) : (powerOnReset s).inv = false := rfl
@[simp] theorem powerOnReset_eq (s : State) : (powerOnReset s).eq = false := rfl
@[simp] theorem powerOnReset_arg0 (s : State) : (powerOnReset s).arg0 = 0 := rfl
@[simp] theorem powerOnReset_arg1 (s : State) : (powerOnReset s).arg1 = 0 := rfl
@[simp] theorem powerOnReset_arg2 (s : State) : (powerOnReset s).arg2 = 0 := rfl
@[simp] theorem powerOnReset_res (s : State) : (powerOnReset s).res = 0 := rfl
@[simp] theorem powerOnReset_bcBase (s : State) : (powerOnReset s).bcBase = 0 := rfl
@[simp] theorem powerOnReset_bcLen (s : State) : (powerOnReset s).bcLen = 0 := rfl
@[simp] theorem powerOnReset_bcPos (s : State) : (powerOnReset s).bcPos = 0 := rfl
@[simp] theorem powerOnReset_bwBase (s : State) : (powerOnReset s).bwBase = 0 := rfl
@[simp] theorem powerOnReset_bwCap (s : State) : (powerOnReset s).bwCap = 0 := rfl
@[simp] theorem powerOnReset_bwPos (s : State) : (powerOnReset s).bwPos = 0 := rfl
@[simp] theorem powerOnReset_crc (s : State) : (powerOnReset s).crc = s.params.crc24qInit := rfl
@[simp] theorem powerOnReset_dmxCfg (s : State) : (powerOnReset s).dmxCfg = DmxCfg.reset := rfl
@[simp] theorem powerOnReset_cntOk (s : State) : (powerOnReset s).cntOk = 0 := rfl
@[simp] theorem powerOnReset_cntErr (s : State) : (powerOnReset s).cntErr = 0 := rfl
@[simp] theorem powerOnReset_cntSkip (s : State) : (powerOnReset s).cntSkip = 0 := rfl
@[simp] theorem powerOnReset_cntDrop (s : State) : (powerOnReset s).cntDrop = 0 := rfl
@[simp] theorem powerOnReset_ctxWeek (s : State) : (powerOnReset s).ctxWeek = 0 := rfl
@[simp] theorem powerOnReset_ctxTow (s : State) : (powerOnReset s).ctxTow = 0 := rfl
@[simp] theorem powerOnReset_recRegs (s : State) : (powerOnReset s).recRegs = RecRegs.reset := rfl
@[simp] theorem powerOnReset_pending (s : State) : (powerOnReset s).pending = [] := rfl
@[simp] theorem powerOnReset_bssTable (s : State) : (powerOnReset s).bssTable = [] := rfl
@[simp] theorem powerOnReset_bssTow (s : State) : (powerOnReset s).bssTow = 0 := rfl
@[simp] theorem powerOnReset_queue (s : State) : (powerOnReset s).queue = [] := rfl
@[simp] theorem powerOnReset_emitted (s : State) : (powerOnReset s).emitted = 0 := rfl
@[simp] theorem powerOnReset_sfaBase (s : State) : (powerOnReset s).sfaBase = 0 := rfl
@[simp] theorem powerOnReset_sfaN (s : State) : (powerOnReset s).sfaN = 0 := rfl
@[simp] theorem powerOnReset_sfaPrn (s : State) : (powerOnReset s).sfaPrn = 0 := rfl
@[simp] theorem powerOnReset_sfaVendor (s : State) : (powerOnReset s).sfaVendor = 0 := rfl
@[simp] theorem powerOnReset_hasDst (s : State) : (powerOnReset s).hasDst = 0 := rfl
@[simp] theorem powerOnReset_hasSlots (s : State) : (powerOnReset s).hasSlots = Vector.replicate 31 none := rfl
@[simp] theorem powerOnReset_memAddr (s : State) : (powerOnReset s).memAddr = 0 := rfl
@[simp] theorem powerOnReset_mem (s : State) : (powerOnReset s).mem = ⟨s.mem.init, []⟩ := rfl

/-! ### emit -/

@[simp] theorem emit_params (r : Record) (s : State) : (emit r s).params = s.params := by unfold emit; split <;> rfl
@[simp] theorem emit_bus (r : Record) (s : State) : (emit r s).bus = s.bus := by unfold emit; split <;> rfl
@[simp] theorem emit_busOut (r : Record) (s : State) : (emit r s).busOut = s.busOut := by unfold emit; split <;> rfl
@[simp] theorem emit_err (r : Record) (s : State) : (emit r s).err = s.err := by unfold emit; split <;> rfl
@[simp] theorem emit_syncLost (r : Record) (s : State) : (emit r s).syncLost = s.syncLost := by unfold emit; split <;> rfl
@[simp] theorem emit_sfDone (r : Record) (s : State) : (emit r s).sfDone = s.sfDone := by unfold emit; split <;> rfl
@[simp] theorem emit_hasDone (r : Record) (s : State) : (emit r s).hasDone = s.hasDone := by unfold emit; split <;> rfl
@[simp] theorem emit_hasFail (r : Record) (s : State) : (emit r s).hasFail = s.hasFail := by unfold emit; split <;> rfl
@[simp] theorem emit_errCause (r : Record) (s : State) : (emit r s).errCause = s.errCause := by unfold emit; split <;> rfl
@[simp] theorem emit_errCmd (r : Record) (s : State) : (emit r s).errCmd = s.errCmd := by unfold emit; split <;> rfl
@[simp] theorem emit_irqEn (r : Record) (s : State) : (emit r s).irqEn = s.irqEn := by unfold emit; split <;> rfl
@[simp] theorem emit_inv (r : Record) (s : State) : (emit r s).inv = s.inv := by unfold emit; split <;> rfl
@[simp] theorem emit_eq (r : Record) (s : State) : (emit r s).eq = s.eq := by unfold emit; split <;> rfl
@[simp] theorem emit_arg0 (r : Record) (s : State) : (emit r s).arg0 = s.arg0 := by unfold emit; split <;> rfl
@[simp] theorem emit_arg1 (r : Record) (s : State) : (emit r s).arg1 = s.arg1 := by unfold emit; split <;> rfl
@[simp] theorem emit_arg2 (r : Record) (s : State) : (emit r s).arg2 = s.arg2 := by unfold emit; split <;> rfl
@[simp] theorem emit_res (r : Record) (s : State) : (emit r s).res = s.res := by unfold emit; split <;> rfl
@[simp] theorem emit_bcBase (r : Record) (s : State) : (emit r s).bcBase = s.bcBase := by unfold emit; split <;> rfl
@[simp] theorem emit_bcLen (r : Record) (s : State) : (emit r s).bcLen = s.bcLen := by unfold emit; split <;> rfl
@[simp] theorem emit_bcPos (r : Record) (s : State) : (emit r s).bcPos = s.bcPos := by unfold emit; split <;> rfl
@[simp] theorem emit_bwBase (r : Record) (s : State) : (emit r s).bwBase = s.bwBase := by unfold emit; split <;> rfl
@[simp] theorem emit_bwCap (r : Record) (s : State) : (emit r s).bwCap = s.bwCap := by unfold emit; split <;> rfl
@[simp] theorem emit_bwPos (r : Record) (s : State) : (emit r s).bwPos = s.bwPos := by unfold emit; split <;> rfl
@[simp] theorem emit_crc (r : Record) (s : State) : (emit r s).crc = s.crc := by unfold emit; split <;> rfl
@[simp] theorem emit_dmxCfg (r : Record) (s : State) : (emit r s).dmxCfg = s.dmxCfg := by unfold emit; split <;> rfl
@[simp] theorem emit_cntOk (r : Record) (s : State) : (emit r s).cntOk = s.cntOk := by unfold emit; split <;> rfl
@[simp] theorem emit_cntErr (r : Record) (s : State) : (emit r s).cntErr = s.cntErr := by unfold emit; split <;> rfl
@[simp] theorem emit_cntSkip (r : Record) (s : State) : (emit r s).cntSkip = s.cntSkip := by unfold emit; split <;> rfl
@[simp] theorem emit_ctxWeek (r : Record) (s : State) : (emit r s).ctxWeek = s.ctxWeek := by unfold emit; split <;> rfl
@[simp] theorem emit_ctxTow (r : Record) (s : State) : (emit r s).ctxTow = s.ctxTow := by unfold emit; split <;> rfl
@[simp] theorem emit_recRegs (r : Record) (s : State) : (emit r s).recRegs = s.recRegs := by unfold emit; split <;> rfl
@[simp] theorem emit_pending (r : Record) (s : State) : (emit r s).pending = s.pending := by unfold emit; split <;> rfl
@[simp] theorem emit_bssTable (r : Record) (s : State) : (emit r s).bssTable = s.bssTable := by unfold emit; split <;> rfl
@[simp] theorem emit_bssTow (r : Record) (s : State) : (emit r s).bssTow = s.bssTow := by unfold emit; split <;> rfl
@[simp] theorem emit_sfaBase (r : Record) (s : State) : (emit r s).sfaBase = s.sfaBase := by unfold emit; split <;> rfl
@[simp] theorem emit_sfaN (r : Record) (s : State) : (emit r s).sfaN = s.sfaN := by unfold emit; split <;> rfl
@[simp] theorem emit_sfaPrn (r : Record) (s : State) : (emit r s).sfaPrn = s.sfaPrn := by unfold emit; split <;> rfl
@[simp] theorem emit_sfaVendor (r : Record) (s : State) : (emit r s).sfaVendor = s.sfaVendor := by unfold emit; split <;> rfl
@[simp] theorem emit_hasDst (r : Record) (s : State) : (emit r s).hasDst = s.hasDst := by unfold emit; split <;> rfl
@[simp] theorem emit_hasSlots (r : Record) (s : State) : (emit r s).hasSlots = s.hasSlots := by unfold emit; split <;> rfl
@[simp] theorem emit_memAddr (r : Record) (s : State) : (emit r s).memAddr = s.memAddr := by unfold emit; split <;> rfl
@[simp] theorem emit_mem (r : Record) (s : State) : (emit r s).mem = s.mem := by unfold emit; split <;> rfl

end Sys2Proof.Laws
end

