-- ==== Sys2Proof/Laws/Ops.lean ====
section
/-! SUPPORT. What each shared operation can do, said once: the end of a command, range checks, stream bits, the view and
the sink, the record queue, the scan, the best-satellite table and the HAS pages. -/

namespace Sys2Proof.Laws

open Sys2Proof Sys2Proof.Machine

/-! ### The end of a command -/

@[simp] theorem finish_ok (i : Instr) (s t : State) : finish i s (.ok t) = .next t := rfl

@[simp] theorem finish_error (i : Instr) (s : State) (c : Cause) :
    finish i s (.error c) = .next (raiseCmdError c (encode i) s) := rfl

/-- A command ends in the state it reached or in its command error. -/
theorem finish_cases {i : Instr} {s t : State} {r : Except Cause State} (h : finish i s r = .next t) :
    r = .ok t ∨ ∃ c, r = .error c ∧ t = raiseCmdError c (encode i) s := by
  cases r with
  | ok u => exact .inl (by simpa using h)
  | error c => exact .inr ⟨c, rfl, by simpa using h.symm⟩

theorem inDmem_iff {a n : Nat} : inDmem a n = true ↔ n = 0 ∨ a + n ≤ Config.dmemSize := by
  simp [inDmem]

/-! ### Stream bits -/

theorem byteBit_eq (v : Byte) (k : Nat) : (byteBit v k).toNat = v.toNat >>> (7 - k % 8) % 2 := by
  simp [byteBit, BitVec.getLsbD, Nat.testBit, Nat.and_comm 1, Nat.and_one_is_mod]
  rcases Nat.mod_two_eq_zero_or_one (v.toNat >>> (7 - k % 8)) with h | h <;> simp [h]

/-- The model's view bit is R100's formula. -/
theorem viewBit_eq (m : Memory) (base k : Nat) : Safety.viewBit m base k = (m.readBit base k).toNat := by
  rw [Safety.viewBit, Memory.readBit, byteBit_eq]

/-- The first bit has the highest weight (R9). -/
theorem bitsVal_eq_sum (bit : Nat → Bool) (n : Nat) :
    bitsVal bit n = ((List.range n).map fun i => (bit i).toNat * 2 ^ (n - 1 - i)).sum := by
  induction n with
  | zero => rfl
  | succ n ih =>
    rw [bitsVal, ih, List.range_succ, List.map_append, List.sum_append, ← List.sum_map_mul_left]
    congr 1
    · congr 1
      refine List.map_congr_left fun i hi => ?_
      have hi := List.mem_range.1 hi
      rw [show n + 1 - 1 - i = (n - 1 - i) + 1 by omega, pow_succ]
      ring
    · simp

/-- The model's field value is R100's sum. -/
theorem readBits_eq (m : Memory) (base p n : Nat) : Safety.readBits m base p n = m.readBits base p n := by
  simp only [Safety.readBits, Memory.readBits, bitsVal_eq_sum, viewBit_eq]

theorem bitsVal_lt (bit : Nat → Bool) (n : Nat) : bitsVal bit n < 2 ^ n := by
  induction n with
  | zero => simp [bitsVal]
  | succ n ih =>
    have := Bool.toNat_le (bit n)
    rw [bitsVal, pow_succ]
    omega

/-! ### The view and the sink -/

/-- What the checks of R101 can answer. -/
theorem viewRead_cases (n : Nat) (s : State) :
    (n = 0 ∧ viewRead n s = .ok 0) ∨
    (1 ≤ n ∧ s.bcLen.toNat < s.bcPos.toNat + n ∧ viewRead n s = .error .short) ∨
    (1 ≤ n ∧ s.bcPos.toNat + n ≤ s.bcLen.toNat ∧
      Config.dmemSize ≤ s.bcBase.toNat + (s.bcPos.toNat + n - 1) / 8 ∧ viewRead n s = .error .addr) ∨
    (1 ≤ n ∧ s.bcPos.toNat + n ≤ s.bcLen.toNat ∧
      s.bcBase.toNat + (s.bcPos.toNat + n - 1) / 8 < Config.dmemSize ∧
      viewRead n s = .ok (s.mem.readBits s.bcBase.toNat s.bcPos.toNat n)) := by
  unfold viewRead
  split_ifs with h0 h1 h2
  · exact .inl ⟨h0, rfl⟩
  · exact .inr (.inl ⟨by omega, by omega, rfl⟩)
  · exact .inr (.inr (.inl ⟨by omega, by omega, by omega, rfl⟩))
  · exact .inr (.inr (.inr ⟨by omega, by omega, by omega, rfl⟩))

/-- What a write to the sink can answer. -/
theorem sinkWrite_cases (n : Nat) (bit : Nat → Bool) (s : State) :
    (s.bwCap.toNat < s.bwPos.toNat + n ∧ sinkWrite n bit s = .error .wfull) ∨
    (s.bwPos.toNat + n ≤ s.bwCap.toNat ∧ 1 ≤ n ∧
      Config.dmemSize ≤ s.bwBase.toNat + (s.bwPos.toNat + n - 1) / 8 ∧ sinkWrite n bit s = .error .addr) ∨
    (s.bwPos.toNat + n ≤ s.bwCap.toNat ∧
      (n = 0 ∨ s.bwBase.toNat + (s.bwPos.toNat + n - 1) / 8 < Config.dmemSize) ∧
      sinkWrite n bit s = .ok { s with
        mem := s.mem.writeBits s.bwBase.toNat s.bwPos.toNat bit n
        bwPos := BitVec.ofNat 32 (s.bwPos.toNat + n) }) := by
  unfold sinkWrite
  split_ifs with h1 h2
  · exact .inl ⟨by omega, rfl⟩
  · exact .inr (.inl ⟨by omega, by omega, by omega, rfl⟩)
  · exact .inr (.inr ⟨by omega, by omega, rfl⟩)

/-! ### The record queue -/

theorem emit_full {r : Record} {s : State} (h : s.queue.length = Config.recqDepth) :
    emit r s = { s with cntDrop := s.cntDrop + 1, recqOvf := true } := if_pos h

theorem emit_room {r : Record} {s : State} (h : s.queue.length ≠ Config.recqDepth) :
    emit r s = { s with queue := s.queue ++ [r], emitted := s.emitted + 1 } := if_neg h

/-- The queue after `Emit`: with the record at its end, or as it was. -/
theorem emit_queue_cases (r : Record) (s : State) :
    (emit r s).queue = s.queue ++ [r] ∧ s.queue.length ≠ Config.recqDepth ∨
      (emit r s).queue = s.queue ∧ s.queue.length = Config.recqDepth := by
  by_cases h : s.queue.length = Config.recqDepth
  · exact .inr ⟨by rw [emit_full h], h⟩
  · exact .inl ⟨by rw [emit_room h], h⟩

theorem mem_emit_queue {r q : Record} {s : State} (h : q ∈ (emit r s).queue) : q = r ∨ q ∈ s.queue := by
  rcases emit_queue_cases r s with ⟨hq, -⟩ | ⟨hq, -⟩ <;> rw [hq] at h
  · rcases List.mem_append.1 h with h | h
    · exact .inr h
    · exact .inl (by simpa using h)
  · exact .inr h

theorem emit_queue_length_le {r : Record} {s : State} (h : s.queue.length ≤ Config.recqDepth) :
    (emit r s).queue.length ≤ Config.recqDepth := by
  rcases emit_queue_cases r s with ⟨hq, hn⟩ | ⟨hq, hn⟩ <;> rw [hq]
  · simp only [List.length_append, List.length_cons, List.length_nil]
    omega
  · exact h

/-! ### Delivery: what it leaves alone -/

/-- The pending bytes, the kind and the parameters, which classification reads. -/
abbrev SameInput (s t : State) : Prop := t.pending = s.pending ∧ t.dmxCfg = s.dmxCfg ∧ t.params = s.params

theorem emit_sameInput (r : Record) (s : State) : SameInput s (emit r s) := by simp [SameInput]

theorem bssClose_sameInput (s : State) : SameInput s (bssClose s) := by
  unfold bssClose
  split
  · exact ⟨rfl, rfl, rfl⟩
  · simp [SameInput]

theorem bssInsert_sameInput (r : Record) (s : State) : SameInput s (bssInsert r s) := by
  unfold bssInsert
  split_ifs <;> exact ⟨rfl, rfl, rfl⟩

theorem bssOffer_sameInput (r : Record) (s : State) : SameInput s (bssOffer r s) := by
  have hc : SameInput s (if s.bssTable ≠ [] ∧ r.tow ≠ s.bssTow then bssClose s else s) := by
    split_ifs
    · exact bssClose_sameInput s
    · exact ⟨rfl, rfl, rfl⟩
  simp only [bssOffer]
  generalize (if s.bssTable ≠ [] ∧ r.tow ≠ s.bssTow then bssClose s else s) = t at hc ⊢
  obtain ⟨h1, h2, h3⟩ := bssInsert_sameInput r (if t.bssTable = [] then { t with bssTow := r.tow } else t)
  rw [SameInput, h1, h2, h3]
  split_ifs <;> exact hc

/-- Delivering a record changes nothing that classification reads (R180). -/
theorem deliver_sameInput (r : Record) (s : State) : SameInput s (deliver r s) := by
  simp only [deliver]
  split_ifs
  · simp [SameInput]
  · exact ⟨rfl, rfl, rfl⟩
  · exact bssOffer_sameInput r { s with cntOk := s.cntOk + 1 }
  · simp [SameInput]

/-! ### The scan -/

/-- What every turn of the scan keeps, the scan keeps (R174). -/
theorem scan_keeps {P : State → Prop}
    (skip : ∀ s b rest, s.pending = b :: rest → P s → P (skipByte rest s))
    (reject : ∀ s b rest code bit, s.pending = b :: rest → P s → P (rejectFrame code bit rest s))
    (accept : ∀ s b rest n f, s.pending = b :: rest →
      classify s.params.crc24qInit s.dmxCfg.kind (b :: rest) = .ok n f → P s →
      P (deliver (frameRecord s f) { s with pending := (b :: rest).drop n }))
    (fuel : Nat) {s : State} (h : P s) : P (scan fuel s) := by
  induction fuel generalizing s with
  | zero => exact h
  | succ fuel ih =>
    unfold scan
    split
    · exact h
    · rename_i b rest hp
      split
      · exact h
      · exact ih (skip s b rest hp h)
      · exact ih (reject s b rest _ _ hp h)
      · rename_i n f hc
        exact ih (accept s b rest n f hp hc h)

/-- The scan never changes the configuration or the parameters. -/
theorem scan_config (fuel : Nat) (s : State) : (scan fuel s).dmxCfg = s.dmxCfg ∧ (scan fuel s).params = s.params :=
  scan_keeps (P := fun t => t.dmxCfg = s.dmxCfg ∧ t.params = s.params)
    (fun _ _ _ _ h => h)
    (fun t _ _ code bit _ h => by simpa [rejectFrame] using h)
    (fun t b rest n f _ _ h => by
      obtain ⟨-, h2, h3⟩ := deliver_sameInput (frameRecord t f) { t with pending := (b :: rest).drop n }
      exact ⟨h2.trans h.1, h3.trans h.2⟩)
    fuel ⟨rfl, rfl⟩

/-- Every turn takes at least one byte, so with `|P|` turns the scan ends with nothing pending or with a frame that is
waited for (R174, R175). -/
theorem scan_ends
    (progress : ∀ init k p n f, p ≠ [] → classify init k p = .ok n f → 1 ≤ n)
    (fuel : Nat) {s : State} (h : s.pending.length ≤ fuel) :
    (scan fuel s).pending = [] ∨
      classify s.params.crc24qInit s.dmxCfg.kind (scan fuel s).pending = .needMore := by
  induction fuel generalizing s with
  | zero => exact .inl (List.length_eq_zero_iff.1 (Nat.le_zero.1 h))
  | succ fuel ih =>
    unfold scan
    split
    · exact .inl ‹_›
    · rename_i b rest hp
      have hl : rest.length ≤ fuel := by simpa [hp] using h
      split
      · exact .inr (by rwa [hp])
      · exact ih (s := skipByte rest s) hl
      · rename_i code bit _
        simpa [rejectFrame] using ih (s := rejectFrame code bit rest s) (by simpa [rejectFrame] using hl)
      · rename_i n f hc
        have hn := progress _ _ _ _ _ (List.cons_ne_nil _ _) hc
        obtain ⟨h1, h2, h3⟩ := deliver_sameInput (frameRecord s f) { s with pending := (b :: rest).drop n }
        have := ih (s := deliver (frameRecord s f) { s with pending := (b :: rest).drop n })
          (by rw [h1]; simp only [List.length_drop, List.length_cons]; omega)
        rwa [h2, h3] at this

/-! ### Best-satellite selection -/

theorem bestRecord_mem {t : List Record} {e : Record} (h : bestRecord t = some e) : e ∈ t := by
  induction t generalizing e with
  | nil => simp [bestRecord] at h
  | cons r rs ih =>
    simp only [bestRecord] at h
    split at h
    · simp_all
    · rename_i b hb
      split_ifs at h
      · exact List.mem_cons_of_mem _ (by simpa [← Option.some.inj h] using ih hb)
      · simp_all

theorem bestRecord_eq_none {t : List Record} : bestRecord t = none ↔ t = [] := by
  cases t with
  | nil => simp [bestRecord]
  | cons r rs =>
    simp only [bestRecord, reduceCtorEq, iff_false]
    split
    · simp
    · split_ifs <;> simp

/-- What closing a tick can do (R197). -/
theorem bssClose_cases (s : State) :
    (s.bssTable = [] ∧ bssClose s = s) ∨
      ∃ e ∈ s.bssTable, bestRecord s.bssTable = some e ∧ bssClose s = { emit e s with bssTable := [] } := by
  unfold bssClose
  cases h : bestRecord s.bssTable with
  | none => exact .inl ⟨bestRecord_eq_none.1 h, rfl⟩
  | some e => exact .inr ⟨e, bestRecord_mem h, rfl, rfl⟩

/-! ### HAS slots and pages -/

theorem slotOf_setSlot_same {mid : Nat} (h : 1 ≤ mid ∧ mid ≤ 31) (g : Option HasGroup) (s : State) :
    slotOf (setSlot mid g s) mid = g := by
  have : mid - 1 < 31 := by omega
  simp [slotOf, setSlot, this]

theorem slotOf_setSlot_other {mid m : Nat} (h : 1 ≤ mid) (hm : 1 ≤ m) (hne : m ≠ mid) (g : Option HasGroup)
    (s : State) :
    slotOf (setSlot mid g s) m = slotOf s m := by
  have : mid - 1 ≠ m - 1 := by omega
  simp [slotOf, setSlot, this]

/-- The group a page joins (R150): a new one, the slot's, or a new one in the place of the slot's. -/
theorem openGroup_cases (op : HasOperand) (s : State) :
    (slotOf s op.mid = none ∧ openGroup op s = (s, ⟨op.ms, []⟩)) ∨
    (∃ g, slotOf s op.mid = some g ∧ g.ms = op.ms ∧ openGroup op s = (s, g)) ∨
    ∃ g, slotOf s op.mid = some g ∧ g.ms ≠ op.ms ∧
      openGroup op s = (emit (hasRecord s op .msMismatch op.mid op.pid g.ms) s, ⟨op.ms, []⟩) := by
  unfold openGroup
  cases h : slotOf s op.mid with
  | none => exact .inl ⟨rfl, rfl⟩
  | some g =>
    by_cases hm : g.ms = op.ms
    · exact .inr (.inl ⟨g, rfl, hm, by simp [hm]⟩)
    · exact .inr (.inr ⟨g, rfl, hm, by simp [hm]⟩)

theorem mem_insertPage {pid : Nat} {y : List Byte} {ps : List (Nat × List Byte)} {q : Nat × List Byte}
    (h : q ∈ insertPage pid y ps) : q = (pid, y) ∨ q ∈ ps := by
  induction ps with
  | nil => exact .inl (by simpa [insertPage] using h)
  | cons p ps ih =>
    obtain ⟨r, z⟩ := p
    simp only [insertPage] at h
    split_ifs at h
    · simpa using h
    · exact .inr h
    · rcases List.mem_cons.1 h with h | h
      · exact .inr (by simp [h])
      · exact (ih h).imp id (List.mem_cons_of_mem _)

theorem insertPage_length_le (pid : Nat) (y : List Byte) (ps : List (Nat × List Byte)) :
    (insertPage pid y ps).length ≤ ps.length + 1 := by
  induction ps with
  | nil => simp [insertPage]
  | cons p ps ih =>
    obtain ⟨r, z⟩ := p
    simp only [insertPage]
    (split_ifs <;> simp); omega

theorem rising_insertPage (pid : Nat) (y : List Byte) {ps : List (Nat × List Byte)}
    (h : ps.Pairwise fun p q => p.1 < q.1) : (insertPage pid y ps).Pairwise fun p q => p.1 < q.1 := by
  induction ps with
  | nil => simp [insertPage]
  | cons p ps ih =>
    obtain ⟨r, z⟩ := p
    obtain ⟨hr, hps⟩ := List.pairwise_cons.1 h
    simp only [insertPage]
    split_ifs with h1 h2
    · refine List.pairwise_cons.2 ⟨fun q hq => ?_, h⟩
      rcases List.mem_cons.1 hq with rfl | hq
      · exact h1
      · exact h1.trans (hr q hq)
    · exact h
    · refine List.pairwise_cons.2 ⟨fun q hq => ?_, ih hps⟩
      rcases mem_insertPage hq with rfl | hq
      · exact lt_of_le_of_ne (not_lt.1 h1) (Ne.symm h2)
      · exact hr q hq

end Sys2Proof.Laws
end

