-- ==== Sys2Proof/Laws/PerInstr.lean ====
section
/-! SUPPORT. Facts about every command, one lemma per constructor: the OP field of its word is the one R83 gives it. -/

namespace Sys2Proof.Laws

open Sys2Proof

/-- The OP column of R83. -/
def opcodeOf : Instr → Nat
  | .nop => 0x00
  | .srst => 0x01
  | .bcRdu _ => 0x10
  | .bcRds _ => 0x11
  | .bcPeek _ => 0x12
  | .bcAdv _ => 0x13
  | .bcRem => 0x14
  | .bwWr _ => 0x18
  | .bwAlign => 0x19
  | .crcInit => 0x20
  | .crcByte _ => 0x21
  | .crcMem => 0x22
  | .crcChk => 0x23
  | .rtcmEnc => 0x28
  | .gfMul => 0x30
  | .gfInv => 0x31
  | .hasPage => 0x32
  | .hasClr => 0x33
  | .dmxByte _ => 0x38
  | .dmxFeed => 0x39
  | .dmxEos => 0x3A
  | .recPop => 0x3B
  | .sfaPush => 0x40
  | .sfaClr => 0x41

/-- The OP field of a command's word is its row's (R80, R83). -/
def OpcodeByte.Statement (i : Instr) : Prop := opOf (encode i) = opcodeOf i

/-- The upper byte of a word whose other 24 bits follow it. -/
theorem opOf_append (op : Byte) {k : Nat} (w : Word) (x : BitVec k) (hk : k = 24)
    (h : w = (op ++ x).setWidth 32) : opOf w = op.toNat := by
  subst hk h
  have hx := x.isLt
  have ho := op.isLt
  rw [opOf, BitVec.extractLsb'_toNat, BitVec.setWidth_eq, BitVec.toNat_append, ← Nat.shiftLeft_add_eq_or_of_lt hx,
    Nat.shiftLeft_eq, Nat.shiftRight_eq_div_pow]
  omega

theorem opOf_wordN (op : Byte) : opOf (wordN op) = op.toNat :=
  opOf_append op _ (0 : BitVec 24) rfl (by simp [wordN])

theorem opOf_wordI8 (op b : Byte) : opOf (wordI8 op b) = op.toNat :=
  opOf_append op _ ((0 : BitVec 16) ++ b) rfl (by simp only [wordI8, BitVec.append_assoc]; rfl)

theorem opOf_wordW (op : Byte) (n : Nat) : opOf (wordW op n) = op.toNat :=
  opOf_append op _ ((0 : BitVec 17) ++ BitVec.ofNat 7 n) rfl (by simp only [wordW, BitVec.append_assoc]; rfl)

theorem opOf_wordI16 (op : Byte) (m : Nat) : opOf (wordI16 op m) = op.toNat :=
  opOf_append op _ ((0 : BitVec 8) ++ BitVec.ofNat 16 m) rfl (by simp only [wordI16, BitVec.append_assoc]; rfl)

theorem OpcodeByte.nop : OpcodeByte.Statement (.nop) := opOf_wordN 0x00

theorem OpcodeByte.srst : OpcodeByte.Statement (.srst) := opOf_wordN 0x01

theorem OpcodeByte.bcRdu (n : Nat) : OpcodeByte.Statement (.bcRdu n) := opOf_wordW 0x10 n

theorem OpcodeByte.bcRds (n : Nat) : OpcodeByte.Statement (.bcRds n) := opOf_wordW 0x11 n

theorem OpcodeByte.bcPeek (n : Nat) : OpcodeByte.Statement (.bcPeek n) := opOf_wordW 0x12 n

theorem OpcodeByte.bcAdv (m : Nat) : OpcodeByte.Statement (.bcAdv m) := opOf_wordI16 0x13 m

theorem OpcodeByte.bcRem : OpcodeByte.Statement (.bcRem) := opOf_wordN 0x14

theorem OpcodeByte.bwWr (n : Nat) : OpcodeByte.Statement (.bwWr n) := opOf_wordW 0x18 n

theorem OpcodeByte.bwAlign : OpcodeByte.Statement (.bwAlign) := opOf_wordN 0x19

theorem OpcodeByte.crcInit : OpcodeByte.Statement (.crcInit) := opOf_wordN 0x20

theorem OpcodeByte.crcByte (b : Byte) : OpcodeByte.Statement (.crcByte b) := opOf_wordI8 0x21 b

theorem OpcodeByte.crcMem : OpcodeByte.Statement (.crcMem) := opOf_wordN 0x22

theorem OpcodeByte.crcChk : OpcodeByte.Statement (.crcChk) := opOf_wordN 0x23

theorem OpcodeByte.rtcmEnc : OpcodeByte.Statement (.rtcmEnc) := opOf_wordN 0x28

theorem OpcodeByte.gfMul : OpcodeByte.Statement (.gfMul) := opOf_wordN 0x30

theorem OpcodeByte.gfInv : OpcodeByte.Statement (.gfInv) := opOf_wordN 0x31

theorem OpcodeByte.hasPage : OpcodeByte.Statement (.hasPage) := opOf_wordN 0x32

theorem OpcodeByte.hasClr : OpcodeByte.Statement (.hasClr) := opOf_wordN 0x33

theorem OpcodeByte.dmxByte (b : Byte) : OpcodeByte.Statement (.dmxByte b) := opOf_wordI8 0x38 b

theorem OpcodeByte.dmxFeed : OpcodeByte.Statement (.dmxFeed) := opOf_wordN 0x39

theorem OpcodeByte.dmxEos : OpcodeByte.Statement (.dmxEos) := opOf_wordN 0x3A

theorem OpcodeByte.recPop : OpcodeByte.Statement (.recPop) := opOf_wordN 0x3B

theorem OpcodeByte.sfaPush : OpcodeByte.Statement (.sfaPush) := opOf_wordN 0x40

theorem OpcodeByte.sfaClr : OpcodeByte.Statement (.sfaClr) := opOf_wordN 0x41

end Sys2Proof.Laws
end

