-- ==== Sys2Proof/Tests/Slice0.lean ====
section
/-! SUPPORT. The model's own tests: ill-formed terms are refused, words written out from R81, R83 and R91 decode, one
step per command against the vectors of spec/95_test_vectors.md, and for each statement with hypotheses a state that
meets them (`witness_<statement>`). -/

namespace Sys2Proof.Tests

set_option Elab.async false

open Sys2Proof Sys2Proof.Machine Sys2Proof.Safety

/-! ### Well-formedness: each bounded field just inside and just outside -/

theorem test_wf_bcRdu : Instr.wf (.bcRdu 127) = true ∧ Instr.wf (.bcRdu 128) = false := by decide

theorem test_wf_bcRds : Instr.wf (.bcRds 127) = true ∧ Instr.wf (.bcRds 128) = false := by decide

theorem test_wf_bcPeek : Instr.wf (.bcPeek 127) = true ∧ Instr.wf (.bcPeek 128) = false := by decide

theorem test_wf_bcAdv : Instr.wf (.bcAdv 65535) = true ∧ Instr.wf (.bcAdv 65536) = false := by decide

theorem test_wf_bwWr : Instr.wf (.bwWr 127) = true ∧ Instr.wf (.bwWr 128) = false := by decide

/-! ### Decoding: words bit by bit, `OP` then `w[23:16]`, `w[15:8]`, `w[7:0]` (R81, R83) -/

theorem test_decode_system :
    decode 0b00000000_00000000_00000000_00000000 = .ok .nop ∧
    decode 0b00000001_00000000_00000000_00000000 = .ok .srst := by decide

theorem test_decode_cursor :
    decode 0b00010000_00000000_00000000_00001100 = .ok (.bcRdu 12) ∧
    decode 0b00010001_00000000_00000000_00100110 = .ok (.bcRds 38) ∧
    decode 0b00010010_00000000_00000000_01000000 = .ok (.bcPeek 64) ∧
    decode 0b00010011_00000000_00000110_10011111 = .ok (.bcAdv 1695) ∧
    decode 0b00010100_00000000_00000000_00000000 = .ok .bcRem := by decide

theorem test_decode_writer :
    decode 0b00011000_00000000_00000000_00011000 = .ok (.bwWr 24) ∧
    decode 0b00011001_00000000_00000000_00000000 = .ok .bwAlign := by decide

theorem test_decode_crc :
    decode 0b00100000_00000000_00000000_00000000 = .ok .crcInit ∧
    decode 0b00100001_00000000_00000000_11010011 = .ok (.crcByte 0xD3) ∧
    decode 0b00100010_00000000_00000000_00000000 = .ok .crcMem ∧
    decode 0b00100011_00000000_00000000_00000000 = .ok .crcChk ∧
    decode 0b00101000_00000000_00000000_00000000 = .ok .rtcmEnc := by decide

theorem test_decode_has :
    decode 0b00110000_00000000_00000000_00000000 = .ok .gfMul ∧
    decode 0b00110001_00000000_00000000_00000000 = .ok .gfInv ∧
    decode 0b00110010_00000000_00000000_00000000 = .ok .hasPage ∧
    decode 0b00110011_00000000_00000000_00000000 = .ok .hasClr := by decide

theorem test_decode_demux :
    decode 0b00111000_00000000_00000000_11010011 = .ok (.dmxByte 0xD3) ∧
    decode 0b00111001_00000000_00000000_00000000 = .ok .dmxFeed ∧
    decode 0b00111010_00000000_00000000_00000000 = .ok .dmxEos ∧
    decode 0b00111011_00000000_00000000_00000000 = .ok .recPop := by decide

theorem test_decode_subframe :
    decode 0b01000000_00000000_00000000_00000000 = .ok .sfaPush ∧
    decode 0b01000001_00000000_00000000_00000000 = .ok .sfaClr := by decide

/-- 95_test_vectors.md 2.1: the words that are no command. -/
theorem test_decode_errors :
    [0x02000000, 0xFF000000].map decode = List.replicate 2 (.error .illegalOpcode) ∧
    [0x01000001, 0x10000080, 0x10000100, 0x13010000, 0x21000100].map decode =
      List.replicate 5 (.error .reservedField) ∧
    decode 0x10000041 = .ok (.bcRdu 65) := by decide

/-! ### One step -/

/-- The block after power-on with CRC24Q_INIT 0, no HAS parity columns and DMEM all 0: test points, not choices
(95_test_vectors.md). -/
def start : State := .powerOn ⟨0, []⟩ []

/-- `s` with bytes stored in DMEM. -/
def stored (a : Nat) (bs : List Byte) (s : State) : State := { s with mem := s.mem.writeBytes a bs }

/-- The state a command ends in. -/
def after (i : Instr) (s : State) : State :=
  match exec i s with
  | .next t => t
  | _ => start

/-- The state a host access ends in. -/
def stepped (s : State) : State :=
  match step s with
  | .next t => t
  | _ => start

/-- A view of `len` bits at byte `base`, cursor at `pos`. -/
def view (base len pos : Word) (s : State) : State := { s with bcBase := base, bcLen := len, bcPos := pos }

/-- A sink of `cap` bits at byte `base`, filled to `pos`. -/
def sink (base cap pos : Word) (s : State) : State := { s with bwBase := base, bwCap := cap, bwPos := pos }

/-- `s` with ARG0 and ARG1. -/
def args (x y : Word) (s : State) : State := { s with arg0 := x, arg1 := y }

/-- `s` with one framing kind. -/
def withKind (k : Kind) (s : State) : State := { s with dmxCfg := ⟨k, false, false, 0⟩ }

/-- The bytes of vectors B-1 to B-10. -/
def cursorBytes : State := stored 0 [0x01, 0x23, 0x45, 0x67, 0x89, 0xAB, 0xCD, 0xEF, 0x80] start

/-- From reset, `withFetchWord` runs the host's CMD write: BC.REM of an empty view. -/
theorem test_fetch : (stepped (start.withFetchWord 32 0x14000000)).bus = [] ∧
    (stepped (start.withFetchWord 32 0x02000000)).errCause = .illegalOpcode := by decide +kernel

/-- X-1: `R ID`. -/
theorem test_read_id : (stepped { start with bus := [.csrRead 0] }).busOut = [0x514C3607] := by decide +kernel

/-- X-2: the memory port stores 8 bits and wraps. -/
theorem test_memory_port :
    let t := stepped { start with memAddr := 8191, bus := [.csrWrite 0x3D 0x11223344] }
    t.mem.readByte 8191 = 0x44 ∧ t.memAddr = 0 := by decide +kernel

theorem test_nop : after .nop cursorBytes = cursorBytes := by decide +kernel

/-- X-8: SRST keeps DMEM. -/
theorem test_srst :
    let t := after .srst { cursorBytes with err := true, res := 5, irqEn := 1, arg0 := 3 }
    csrValue 0x02 t = 0 ∧ csrValue 0x0C t = 0 ∧ csrValue 0x05 t = 0 ∧ csrValue 0x08 t = 0 ∧
      t.mem.readByte 1 = 0x23 := by decide +kernel

/-- B-1. -/
theorem test_bcRdu_64 :
    let t := after (.bcRdu 64) (view 0 72 0 cursorBytes)
    csrValue 0x0C t = 0x89ABCDEF ∧ csrValue 0x0D t = 0x01234567 ∧ t.bcPos = 64 := by decide +kernel

/-- B-4: SHORT leaves RES. -/
theorem test_bcRdu_short :
    let t := after (.bcRdu 1) (view 0 72 72 cursorBytes)
    t.errCause = .short ∧ t.errCmd = 0x10000001 ∧ t.res = 0 ∧ t.bcPos = 72 := by decide +kernel

/-- B-2. -/
theorem test_bcRds_negative :
    let t := after (.bcRds 8) (view 0 72 64 cursorBytes)
    t.res = 0xFFFFFFFFFFFFFF80 ∧ t.inv = true ∧ t.bcPos = 72 := by decide +kernel

/-- B-6. -/
theorem test_bcRds_38 :
    let t := after (.bcRds 38) (view 0 72 16 cursorBytes)
    t.res = 0x0000001159E26AF3 ∧ t.inv = false ∧ t.bcPos = 54 := by decide +kernel

/-- R103's example. -/
theorem test_bcPeek :
    let t := after (.bcPeek 8) (view 0 16 4 (stored 0 [0xA5, 0x3C] start))
    t.res = 0x53 ∧ t.bcPos = 4 := by decide +kernel

/-- B-15, through BC.PEEK: byte 8192 is outside DMEM. -/
theorem test_bcPeek_addr : (after (.bcPeek 1) (view 8190 32 16 start)).errCause = .addr := by decide +kernel

/-- B-16 and B-17. -/
theorem test_bcAdv : (after (.bcAdv 16) (view 8190 32 16 start)).bcPos = 32 ∧
    (after (.bcAdv 1) (view 8190 32 32 start)).errCause = .short := by decide +kernel

/-- R106's example. -/
theorem test_bcRem : (after .bcRem (view 0 16 12 start)).res = 4 := by decide +kernel

/-- W-3. -/
theorem test_bwWr_64 :
    let t := after (.bwWr 64) (args 0x89ABCDEF 0x01234567 (sink 0x300 64 0 start))
    t.mem.readBytes 0x300 8 = [0x01, 0x23, 0x45, 0x67, 0x89, 0xAB, 0xCD, 0xEF] ∧ t.bwPos = 64 := by decide +kernel

/-- W-2: bits outside the write keep their value. -/
theorem test_bwWr_mid :
    (after (.bwWr 3) (sink 0x300 16 4 (stored 0x300 [0xFF, 0xFF] start))).mem.readBytes 0x300 2 = [0xF1, 0xFF] := by
  decide +kernel

/-- W-9, after its BW.WRI. -/
theorem test_bwAlign :
    let t := after .bwAlign (sink 0 8 3 (stored 0 [0xBF] start))
    t.mem.readByte 0 = 0xA0 ∧ t.bwPos = 8 := by decide +kernel

/-- CR-1 with CRC24Q_INIT = FFFFFF. -/
theorem test_crcInit : (after .crcInit { State.powerOn ⟨0xFFFFFF, []⟩ [] with crc := 0 }).crc = 0xFFFFFF := by
  decide +kernel

/-- CR-2, both columns. -/
theorem test_crcByte : (after (.crcByte 0xD3) start).crc = 0xE33309 ∧
    (after (.crcByte 0xD3) { start with crc := 0xFFFFFF }).crc = 0xC14931 := by decide +kernel

/-- ASCII 123456789 (R125). -/
theorem test_crcMem :
    (after .crcMem (args 0x10 9 (stored 0x10 [0x31, 0x32, 0x33, 0x34, 0x35, 0x36, 0x37, 0x38, 0x39] start))).crc =
      0xCDE703 := by decide +kernel

/-- CR-7. -/
theorem test_crcMem_addr : (after .crcMem (args 8190 3 start)).errCause = .addr := by decide +kernel

/-- CR-4 and CR-5. -/
theorem test_crcChk :
    let s := { stored 0 [0xD3, 0x00, 0x02, 0xFE, 0x90, 0x7E, 0xB0, 0x0F] start with crc := 0x7EB00F }
    (after .crcChk (args 5 0 s)).eq = true ∧ (after .crcChk (args 4 0 { s with eq := true })).eq = false := by
  decide +kernel

/-- 95_test_vectors.md 2.5, first row. -/
theorem test_rtcmEnc :
    let t := after .rtcmEnc { args 0x100 2 (stored 0x100 [0xFE, 0x90] start) with arg2 := 0x200 }
    t.mem.readBytes 0x200 8 = [0xD3, 0x00, 0x02, 0xFE, 0x90, 0x7E, 0xB0, 0x0F] ∧ t.res = 8 ∧ t.crc = 0 := by
  decide +kernel

/-- 95_test_vectors.md 2.6: the table of GF.MULI and GF.INVI. -/
theorem test_gfMul :
    ([(0x02, 0x80), (0x53, 0xCA), (0x57, 0x83), (0xFF, 0xFF), (0x00, 0x53), (0x01, 0x53), (0x80, 0x80), (0x1D, 0x1D),
      (0x153, 0x2CA)] : List (Word × Word)).map (fun p => (after .gfMul (args p.1 p.2 start)).res) =
      [0x1D, 0x8F, 0x31, 0xE2, 0x00, 0x53, 0x13, 0x4C, 0x8F] := by decide +kernel

theorem test_gfInv :
    ([0x01, 0x02, 0x03, 0x53, 0x8E, 0xFF, 0x1D, 0x80, 0xCA] : List Word).map
      (fun a => (after .gfInv (args a 0 start)).res) = [0x01, 0x8E, 0xF4, 0x8C, 0x02, 0xFD, 0x83, 0x1B, 0x62] ∧
    (after .gfInv (args 0x100 0 start)).errCause = .badOperand := by decide +kernel

/-- The pages of vector H-9. -/
def pageA : List Byte := (List.range 53).map (BitVec.ofNat 8 ·)
def pageB : List Byte := (List.range 53).map (BitVec.ofNat 8 <| 0x80 + ·)
def parityPage : List Byte := List.zipWith (fun a b => gmul a 3 ^^^ gmul b 5) pageA pageB

/-- The reassembler of H-9 after its first page, about to be offered PID 2 of MID 3, MS 2. -/
def parityHeld : State :=
  { args 0x140 0x0B020302 (stored 0x140 pageB (State.powerOn ⟨0, [[3], [5]]⟩ [])) with
    hasDst := 0x1000
    hasSlots := (Vector.replicate 31 none).setIfInBounds 2 (some ⟨2, [(33, parityPage)]⟩) }

/-- H-9. -/
theorem test_hasPage_parity :
    parityPage.take 6 = [0xBA, 0xBC, 0xB6, 0xB0, 0xA2, 0xA4] ∧
    let t := after .hasPage parityHeld
    t.mem.readBytes 0x1000 106 = pageA ++ pageB ∧ t.res = 0 ∧ t.hasDone = true ∧ csrValue 0x35 t = 0 ∧
      t.queue.map (fun r => (r.info, r.prn, r.aux, r.msgid, r.ext)) = [(0x2003, 0x0B, 106, 3, 0x20000)] := by
  decide +kernel

/-- H-8. -/
theorem test_hasPage_mismatch :
    let s := { args 0x140 0x0B030302 start with
      hasSlots := (Vector.replicate 31 none).setIfInBounds 2 (some ⟨5, [(2, pageA)]⟩) }
    let t := after .hasPage s
    t.res = 1 ∧ slotOf t 3 = some ⟨3, [(2, List.replicate 53 0)]⟩ ∧
      t.queue.map (fun r => (r.info, r.ext)) = [(0x2203, 0x30005)] := by decide +kernel

/-- H-10. -/
theorem test_hasClr :
    let t := after .hasClr parityHeld
    csrValue 0x35 parityHeld = 8 ∧ csrValue 0x35 t = 0 ∧ t.queue = [] := by decide +kernel

/-- D-R1, its ninth byte. -/
theorem test_dmxByte_frame :
    let t := after (.dmxByte 0x0F) { withKind .rtcm3 start with pending := [0xD3, 0x00, 0x02, 0xFE, 0x90, 0x7E, 0xB0] }
    t.res = 1 ∧ t.pending = [] ∧ t.cntOk = 1 ∧
      t.queue.map (fun r => (r.info, r.msgid, r.body)) = [(0x111, 0xFE9, [0xFE, 0x90])] := by decide +kernel

/-- D-0: KIND 0 skips every byte. -/
theorem test_dmxByte_none :
    let t := after (.dmxByte 0xD3) start
    t.cntSkip = 1 ∧ t.syncLost = true ∧ t.pending = [] := by decide +kernel

/-- D-R7: a frame inside a rejected frame is found again. -/
theorem test_dmxFeed_rescan :
    let bs : List Byte := [0xD3, 0x00, 0x02, 0xD3, 0x00, 0x01, 0xFE, 0x51, 0xD1, 0x4E]
    let t := after .dmxFeed (args 0 10 (stored 0 bs (withKind .rtcm3 start)))
    t.res = 2 ∧ t.cntErr = 1 ∧ t.cntOk = 1 ∧ t.cntSkip = 2 ∧
      t.queue.map (fun r => (r.info, r.msgid)) = [(0x10211, 0), (0x111, 0xFFFF)] := by decide +kernel

/-- D-S1. -/
theorem test_dmxFeed_sbf :
    let bs : List Byte := [0x24, 0x40, 0x78, 0xDA, 0xE5, 0x2F, 0x0C, 0x00, 0x01, 0x02, 0x03, 0x04]
    let t := after .dmxFeed (args 0 12 (stored 0 bs (withKind .sbf start)))
    t.queue.map (fun r => (r.info, r.msgid, r.ext, r.body)) = [(0x141, 0xFE5, 1, [1, 2, 3, 4])] := by decide +kernel

/-- The check values of 2.7 over ASCII 123456789. -/
theorem test_checksums :
    let bs : List Byte := [0x31, 0x32, 0x33, 0x34, 0x35, 0x36, 0x37, 0x38, 0x39]
    crc32r bs = 0x2DFD2D88 ∧ crc16 bs = 0x31C3 ∧ fletcher8 bs = (0xDD, 0x15) ∧
      crc32Sum bs = 0x2DFD2D88 ∧ crc16Sum bs = 0x31C3 ∧ (fletcherA bs, fletcherB bs) = (0xDD, 0x15) := by decide +kernel

/-- Two candidates of one tick: PRN 193 with C/No 0x28 and PRN 199 with C/No 0x2D (program P5). -/
def candidate (prn cn0 : Word) : Record := ⟨.dmx, .allystar, .frame, 0, prn, 2300, 345600, cn0, 0, 0, []⟩

/-- P5's choice, at DMX.EOS, with three bytes pending. -/
theorem test_dmxEos :
    let t := after .dmxEos { withKind .allystar start with
      bssTable := [candidate 193 0x28, candidate 199 0x2D], bssTow := 345600, pending := [0xF1, 0xD9, 0x02] }
    t.queue.map (·.prn) = [199] ∧ t.bssTable = [] ∧ t.cntSkip = 3 ∧ t.res = 1 ∧ t.bssTow = 345600 := by decide +kernel

/-- A record of the queue with a body of two bytes (program P1). -/
def queued : Record := ⟨.dmx, .rtcm3, .frame, 0, 0, 0x8FC, 0x54600, 0, 0xFE9, 0, [0xFE, 0x90]⟩

/-- P1's REC.POPI. -/
theorem test_recPop :
    let t := after .recPop (args 0x300 0 { start with queue := [queued] })
    t.mem.readBytes 0x300 2 = [0xFE, 0x90] ∧ t.res = 2 ∧ t.queue = [] ∧
      [0x28, 0x2A, 0x2B, 0x2D, 0x2E].map (csrValue · t) = [0x111, 0x8FC, 0x54600, 0xFE9, 2] := by decide +kernel

/-- QEMPTY comes before ADDR (R192). -/
theorem test_recPop_empty : (after .recPop (args 0xFFFFFFFF 0 start)).errCause = .qempty := by decide +kernel

/-- The frame of program P4 at 0x400, with MTID `mtid`, and SFA_BASE 0x800. -/
def l6Stored (prn mtid : Byte) : State :=
  { stored 0x4D9 [0x01] (stored 0x400 [0x1A, 0xCF, 0xFC, 0x1D, prn, mtid, 0x7F] start) with
    sfaBase := 0x800
    arg0 := 0x400 }

/-- P4's first push. -/
theorem test_sfaPush_start :
    let t := after .sfaPush (l6Stored 0xC7 0x21)
    t.res = 1 ∧ csrValue 0x31 t = 0x1C701 ∧ csrValue 0x32 t = 1695 ∧ t.queue = [] := by decide +kernel

/-- The join of data parts 1 and 2 in P4: offsets 211 and 212 end as `03 FC`. -/
theorem test_sfaPush_join :
    let f := (l6Stored 0xC7 0x20).mem.readBytes 0x400 8
    ((stored 0x8D3 [0x02] start).mem.writeBits 0x800 1695 (fun i => streamBit f (49 + i)) 9).readBytes 0x8D3 2 =
      [0x03, 0xFC] := by decide +kernel

/-- SF-4. -/
theorem test_sfaPush_abort :
    let t := after .sfaPush { l6Stored 0xC8 0x20 with sfaN := 2, sfaPrn := 0xC7, sfaVendor := 1 }
    t.res = 0 ∧ t.sfaN = 0 ∧
      t.queue.map (fun r => (r.info, r.prn, r.aux, r.ext)) = [(0x1202, 0xC7, 3390, 0xC802)] := by decide +kernel

/-- SF-10. -/
theorem test_sfaClr :
    let t := after .sfaClr { start with sfaN := 3, sfaPrn := 0xC7, sfaVendor := 1 }
    csrValue 0x31 t = 0 ∧ csrValue 0x32 t = 0 ∧ t.queue = [] := by decide +kernel

/-! ### Witnesses: a state and operands for the hypotheses of each statement, clause by clause -/

theorem witness_DecodeReadsEncodedCommand :
    [Instr.bcRdu 0, .bcRds 127, .bcAdv 65535, .crcByte 0xFF, .nop].all Instr.wf = true := by decide

theorem witness_EncodeWritesDecodedWord : decode 0x1000007F = .ok (.bcRdu 127) ∧ decode 0x41000000 = .ok .sfaClr := by
  decide

theorem witness_NonCommandWordsAreRejected :
    ({ start with bus := [.csrWrite cmdIndex 0x02000000] } : State).bus = .csrWrite cmdIndex 0x02000000 :: [] ∧
    (∀ row ∈ rowMasks, row.1 ≠ ((0x02000000 : Word).extractLsb' 24 8).toNat) ∧
    (∀ row ∈ rowMasks, row.1 ≠ ((0xFFFFFFFF : Word).extractLsb' 24 8).toNat) ∧
    ((0x10, 0x00FFFF80) ∈ rowMasks ∧ 0x10 = ((0x10000080 : Word).extractLsb' 24 8).toNat ∧
      (0x10000080 : Word) &&& 0x00FFFF80 ≠ 0) ∧
    ((0x41, 0x00FFFFFF) ∈ rowMasks ∧ 0x41 = ((0x41000001 : Word).extractLsb' 24 8).toNat ∧
      (0x41000001 : Word) &&& 0x00FFFFFF ≠ 0) := by decide +kernel

theorem witness_StepRunsDecodedCommand :
    (start.withFetchWord 32 0x3A000000).bus = .csrWrite cmdIndex 0x3A000000 :: [] ∧ decode 0x3A000000 = .ok .dmxEos := by
  decide +kernel

theorem witness_StepPerformsHostAccess :
    start.bus = [] ∧ ({ start with bus := [.csrRead 0x3D] } : State).bus = .csrRead 0x3D :: [] ∧
    ({ start with bus := [.csrWrite 0x3D 7] } : State).bus = .csrWrite 0x3D 7 :: [] ∧ (0x3D : BitVec 6) ≠ 0x01 := by
  decide +kernel

theorem witness_PowerOnResetsEverything :
    ({ start with err := true, bus := [.reset, .csrRead 0] } : State).bus = .reset :: [.csrRead 0] := by decide +kernel

theorem witness_FirstErrorIsLatched : start.err = false ∧ ({ start with err := true } : State).err = true := by
  decide +kernel

theorem witness_FailedCommandLeavesData :
    exec .recPop start = .next (raiseCmdError .qempty (encode .recPop) start) ∧ start.err = false ∧
      (raiseCmdError .qempty (encode .recPop) start).err = true := ⟨rfl, rfl, rfl⟩

theorem witness_CommandsKeepHostRegisters :
    exec .gfMul start = .next (after .gfMul start) ∧ Instr.gfMul ≠ .srst ∧ (∀ n, Instr.gfMul ≠ .bcRds n) ∧
      Instr.gfMul ≠ .crcChk := ⟨rfl, by decide, by simp, by decide⟩

theorem witness_DmxCfgWriteKeepsLegalKind :
    ((DmxCfg.ofWord 0x20).kind = start.dmxCfg.kind ∧ (DmxCfg.ofWord 0x20).bssEn = start.dmxCfg.bssEn) ∧
    ((DmxCfg.ofWord 9).kind ≠ start.dmxCfg.kind ∨ (DmxCfg.ofWord 9).bssEn ≠ start.dmxCfg.bssEn) ∧
    ((DmxCfg.ofWord 0x1F).kind ≠ start.dmxCfg.kind ∨ (DmxCfg.ofWord 0x1F).bssEn ≠ start.dmxCfg.bssEn) := by
  decide +kernel

theorem witness_MemoryPortWritesOneByte : cursorBytes.mem.wf = true ∧ start.mem.wf = true := by decide +kernel

/-- Index 0 and 63; the longest pending list, table, queue and assembler that the invariant allows stay in the bounds
of the statement. -/
theorem witness_CsrReadsShowStateAndReadOnlyKeepIt :
    (∀ i ∈ [0, 0x34, 0x36, 63], i < 64 ∧ i ≠ 0x35) ∧
    (let s : State := { start with
        pending := List.replicate 2047 0xF1, bssTable := List.replicate 32 ⟨.dmx, .allystar, .frame, 0, 0, 0, 0, 0, 0, 0, []⟩,
        queue := List.replicate 8 ⟨.dmx, .rtcm3, .frame, 0, 0, 0, 0, 0, 0, 0, []⟩, sfaN := 5 };
      s.pending.length < 4096 ∧ s.bssTable.length < 64 ∧ s.queue.length ≤ 8 ∧ s.sfaN ≤ 5) ∧
    (1 ≤ 3 ∧ 3 ≤ 31 ∧ slotOf parityHeld 3 ≠ none ∧ slotOf parityHeld 31 = none) ∧
    (0x39 ∈ [0x00, 0x03, 0x04, 0x06, 0x0C, 0x0D, 0x21, 0x28, 0x29, 0x2A, 0x2B, 0x2C, 0x2D, 0x2E, 0x2F, 0x31, 0x32,
      0x35, 0x38, 0x39]) ∧
    (0x3F ∈ [0x07, 0x0B, 0x0E, 0x0F, 0x13, 0x17, 0x19, 0x1A, 0x1B, 0x1C, 0x1D, 0x1E, 0x1F, 0x33, 0x36, 0x37, 0x3A,
      0x3B, 0x3E, 0x3F]) := by decide +kernel

/-- The checks of R101 pass for `n` bits. -/
abbrev readable (n : Nat) (s : State) : Prop :=
  s.bcPos.toNat + n ≤ s.bcLen.toNat ∧ s.bcBase.toNat + (s.bcPos.toNat + n - 1) / 8 < Config.dmemSize

/-- The view ends before `n` bits. -/
abbrev viewShort (n : Nat) (s : State) : Prop := 1 ≤ n ∧ n ≤ 64 ∧ s.bcLen.toNat < s.bcPos.toNat + n

/-- `n` bits of the view run past DMEM. -/
abbrev viewOutside (n : Nat) (s : State) : Prop :=
  1 ≤ n ∧ n ≤ 64 ∧ s.bcPos.toNat + n ≤ s.bcLen.toNat ∧
    Config.dmemSize ≤ s.bcBase.toNat + (s.bcPos.toNat + n - 1) / 8

/-- The last bit of DMEM is readable, the one after it is outside; 64 bits and 65; the end of the view. -/
theorem witness_BcRduReadsUnsigned :
    (64 ≤ 64 ∧ readable 64 (view 0 72 0 cursorBytes)) ∧ (1 ≤ 64 ∧ readable 1 (view 8191 8 7 start)) ∧
    ((0 : Nat) ≤ 64 ∧ (0 : Nat) = 0) ∧ (64 < 65 ∧ 65 < 128) ∧ (64 < 127 ∧ 127 < 128) ∧ viewShort 1 (view 0 72 72 cursorBytes) ∧
    viewOutside 1 (view 8191 9 8 start) := by decide +kernel

theorem witness_BcPeekKeepsCursor :
    (64 ≤ 64 ∧ readable 64 (view 0 72 8 cursorBytes)) ∧ ((0 : Nat) ≤ 64 ∧ (0 : Nat) = 0) ∧
    (64 < 65 ∧ 65 < 128) ∧ (64 < 127 ∧ 127 < 128) ∧ viewShort 64 (view 0 72 9 cursorBytes) ∧ viewOutside 64 (view 8184 65 1 start) := by decide +kernel

theorem witness_BcRdsReadsSigned :
    128 = readBits cursorBytes.mem 0 64 8 ∧ (1 ≤ 8 ∧ 8 ≤ 64 ∧ readable 8 (view 0 72 64 cursorBytes)) ∧
    (1 ≤ 1 ∧ 1 ≤ 64 ∧ readable 1 (view 0 72 0 cursorBytes)) ∧ ((0 : Nat) = 0 ∨ 64 < 0) ∧ ((127 = 0 ∨ 64 < 127) ∧ 127 < 128) ∧
    viewShort 1 (view 0 72 72 cursorBytes) ∧ viewOutside 1 (view 8191 9 8 start) := by decide +kernel

theorem witness_BcAdvMovesAndBcRemCounts :
    5 < 65536 ∧ (view 0 16 12 start).bcPos.toNat + 4 ≤ (view 0 16 12 start).bcLen.toNat ∧
    (view 0 16 12 start).bcLen.toNat < (view 0 16 12 start).bcPos.toNat + 5 ∧
    (view 0 16 16 start).bcPos.toNat ≤ (view 0 16 16 start).bcLen.toNat := by decide +kernel

/-- `n` more bits fit the sink. -/
abbrev sinkRoom (n : Nat) (s : State) : Prop :=
  s.bwPos.toNat + n ≤ s.bwCap.toNat ∧
    (n = 0 ∨ s.bwBase.toNat + (s.bwPos.toNat + n - 1) / 8 < Config.dmemSize)

/-- `n` more bits of the sink run past DMEM. -/
abbrev sinkOutside (n : Nat) (s : State) : Prop :=
  1 ≤ n ∧ s.bwPos.toNat + n ≤ s.bwCap.toNat ∧
    Config.dmemSize ≤ s.bwBase.toNat + (s.bwPos.toNat + n - 1) / 8

theorem witness_BwWrAppendsBits :
    (sink 0x300 64 0 cursorBytes).mem.wf = true ∧ (64 ≤ 64 ∧ sinkRoom 64 (sink 0x300 64 0 cursorBytes)) ∧
    (1 ≤ 64 ∧ sinkRoom 1 (sink 8191 8 7 start)) ∧ sinkRoom 0 (sink 9000 0 0 start) ∧ (64 < 65 ∧ 65 < 128) ∧ (64 < 127 ∧ 127 < 128) ∧
    (1 ≤ 64 ∧ (sink 0x300 64 64 start).bwCap.toNat < (sink 0x300 64 64 start).bwPos.toNat + 1) ∧
    (1 ≤ 64 ∧ sinkOutside 1 (sink 8191 16 8 start)) := by decide +kernel

theorem witness_BwAlignPadsWithZeros :
    start.mem.wf = true ∧ (5 = (8 - 3 % 8) % 8 ∧ sinkRoom 5 (sink 0 8 3 start)) ∧
    (0 = (8 - 8 % 8) % 8 ∧ sinkRoom 0 (sink 0 8 8 start)) ∧ (sink 0 7 3 start).bwCap.toNat < 3 + 5 ∧
    sinkOutside 7 (sink 8192 16 1 start) := by decide +kernel

theorem witness_WrittenFieldReadsBack :
    start.mem.wf = true ∧ 64 ≤ 64 ∧ sinkRoom 64 (sink 0x300 65 1 start) ∧
      exec (.bwWr 64) (sink 0x300 65 1 start) = .next (after (.bwWr 64) (sink 0x300 65 1 start)) :=
  ⟨by decide +kernel, by decide, by decide +kernel, rfl⟩

theorem witness_CrcMemFoldsBytes :
    ((args 9000 0 start).arg1.toNat = 0) ∧
    ((args 8190 2 start).arg0.toNat + (args 8190 2 start).arg1.toNat ≤ Config.dmemSize) ∧
    (1 ≤ (args 8190 3 start).arg1.toNat ∧
      Config.dmemSize < (args 8190 3 start).arg0.toNat + (args 8190 3 start).arg1.toNat) := by decide +kernel

theorem witness_CrcChkComparesTrailer :
    (args 8189 0 start).arg0.toNat + 3 ≤ Config.dmemSize ∧ Config.dmemSize < (args 8190 0 start).arg0.toNat + 3 := by
  decide +kernel

theorem witness_RtcmEncBuildsFrame :
    let s := { args 0x100 2 (stored 0x100 [0xFE, 0x90] start) with arg2 := 8184 }
    (s.mem.wf = true ∧ [0xFE, 0x90] = s.mem.readBytes s.arg0.toNat s.arg1.toNat ∧
      ([0xD3, 0x00, 0x02] : List Byte) =
        [0xD3, BitVec.ofNat 8 (s.arg1.toNat / 256 % 4), BitVec.ofNat 8 (s.arg1.toNat % 256)] ∧
      0x7EB00F = (crc24q s.params.crc24qInit [0xD3, 0x00, 0x02, 0xFE, 0x90]).toNat) ∧
    (1 ≤ s.arg1.toNat ∧ s.arg1.toNat ≤ 1023 ∧ s.arg0.toNat + s.arg1.toNat ≤ Config.dmemSize ∧
      s.arg2.toNat + s.arg1.toNat + 6 ≤ Config.dmemSize) ∧
    ((args 0 0 s).arg1.toNat = 0 ∧ 1023 < (args 0 1024 s).arg1.toNat) ∧
    (1 ≤ s.arg1.toNat ∧ s.arg1.toNat ≤ 1023 ∧ Config.dmemSize < (8185 : Word).toNat + s.arg1.toNat + 6) ∧
    Config.dmemSize < (8191 : Word).toNat + s.arg1.toNat := by decide +kernel

/-- The shortest frame of 95_test_vectors.md 2.5. -/
def shortFrame : List Byte := [0xD3, 0x00, 0x01, 0xFE, 0x51, 0xD1, 0x4E]

theorem witness_RtcmFrameValidExactlyOnZeroResidual :
    byteAt shortFrame 0 = 0xD3 ∧ (byteAt shortFrame 1).toNat < 4 ∧
      1 = 256 * (byteAt shortFrame 1).toNat + (byteAt shortFrame 2).toNat ∧ shortFrame.length = 1 + 6 := by decide

/-- A state ready to encode two bytes and take the frame back. -/
def encoding : State := { args 0x100 2 (stored 0x100 [0xFE, 0x90] (withKind .rtcm3 start)) with arg2 := 0x200 }

theorem witness_EncodedFrameDemultiplexes :
    (encoding.mem.wf = true ∧ encoding.dmxCfg.kind = .rtcm3 ∧ encoding.pending = [] ∧
      encoding.queue.length < Config.recqDepth ∧ 1 ≤ encoding.arg1.toNat ∧ encoding.arg1.toNat ≤ 1023 ∧
      encoding.arg0.toNat + encoding.arg1.toNat ≤ Config.dmemSize ∧
      encoding.arg2.toNat + encoding.arg1.toNat + 6 ≤ Config.dmemSize) ∧
    exec .rtcmEnc encoding = .next (after .rtcmEnc encoding) := ⟨by decide +kernel, rfl⟩

theorem witness_GfProductIsFieldProduct : (1 : Byte) ≠ 0 ∧ (0x80 : Byte).getLsbD 7 = true := by decide

theorem witness_GfInvWritesUniqueInverse :
    (args 0x1FF 0 start).arg0.toNat % 256 ≠ 0 ∧ (args 0x100 0 start).arg0.toNat % 256 = 0 := by decide +kernel

/-- A one-page group, and a group whose only page cannot decode (H-2). -/
theorem witness_HasSolveInvertsNonsingularSystems :
    ([(1, pageA)] : List (Nat × List Byte)).length = 1 ∧ (∀ q ∈ [(1, pageA)], q.2.length = 53) ∧
      hasSolve ⟨0, []⟩ 1 [(1, pageA)] = some pageA := by decide +kernel

theorem witness_SystematicPagesDecodeForAnyGenerator :
    ([(1, pageA), (2, pageB)] : List (Nat × List Byte)).length = 2 ∧ (∀ q ∈ [(1, pageA), (2, pageB)], q.2.length = 53) ∧
    (2 ≤ 32 ∧ [(1, pageA), (2, pageB)].map (·.1) = (List.range 2).map (· + 1)) ∧
    ((∀ q ∈ [(32, pageB)], q.2.length = 53) ∧ ∀ q ∈ [(32, pageB)], 1 < q.1 ∧ q.1 ≤ 32) := by decide +kernel

/-- HAS.PAGE of the page at 0 with ARG1 `v`, HAS_DST 0x1000 (the packing of R84). -/
def offering (v : Word) : State := { args 0 v start with hasDst := 0x1000 }

theorem witness_HasPageRejectsInvalidPages :
    (Config.dmemSize < (args 8140 0x0B020301 start).arg0.toNat + 53) ∧
    (let s := { offering 0x0B050301 with hasDst := 0x1F00 };
      1 ≤ msOf s ∧ msOf s ≤ 32 ∧ Config.dmemSize < s.hasDst.toNat + 53 * msOf s) ∧
    ((args 8139 0 start).arg0.toNat + 53 ≤ Config.dmemSize) ∧
    (let s := offering 0x0B200000;
      s.hasDst.toNat + 53 * msOf s ≤ Config.dmemSize ∧ pidOf s = 0 ∧ midOf s = 0 ∧ msOf s = 32) ∧
    (let s := offering 0x0B020001;
      s.hasDst.toNat + 53 * msOf s ≤ Config.dmemSize ∧ 1 ≤ pidOf s ∧ midOf s = 0) ∧
    (1 ≤ pidOf (offering 0x0B210301) ∧ 1 ≤ midOf (offering 0x0B210301) ∧ 32 < msOf (offering 0x0B210301)) ∧
    msOf (offering 0x0B000301) = 0 := by decide +kernel

theorem valid_offering_one : ValidPage (offering 0x0B010301) := by unfold ValidPage; decide +kernel

theorem valid_parityHeld : ValidPage parityHeld := by unfold ValidPage; decide +kernel

theorem held_parityHeld : HeldPages parityHeld [(33, parityPage)] := .inr (by decide +kernel)

/-- An EMPTY slot, and a held page that is offered again. -/
theorem witness_HasPageCollectsDistinctPages :
    (ValidPage (offering 0x0B020301) ∧ HeldPages (offering 0x0B020301) [] ∧
      (∀ y, (pidOf (offering 0x0B020301), y) ∉ ([] : List (Nat × List Byte))) ∧
      ([] : List (Nat × List Byte)).length + 1 < msOf (offering 0x0B020301)) ∧
    (let s := { parityHeld with arg1 := 0x0B020321 };
      ValidPage s ∧ HeldPages s [(33, parityPage)] ∧ (∃ y, (pidOf s, y) ∈ [(33, parityPage)]) ∧
        [(33, parityPage)].Pairwise (fun p q => p.1 < q.1) ∧ [(33, parityPage)].length < msOf s) :=
  ⟨⟨by unfold ValidPage; decide +kernel, .inl (by decide +kernel), fun _ => List.not_mem_nil, by decide +kernel⟩,
    by unfold ValidPage; decide +kernel, .inr (by decide +kernel), ⟨parityPage, by decide +kernel⟩, by simp,
    by decide +kernel⟩

theorem witness_HasPageReplacesMismatchedGroup :
    let s := { parityHeld with arg1 := 0x0B030302 }
    ValidPage s ∧ slotOf s (midOf s) = some ⟨2, [(33, parityPage)]⟩ ∧ 2 ≤ 32 ∧ 2 ≠ msOf s :=
  ⟨by unfold ValidPage; decide +kernel, by decide +kernel, by decide, by decide +kernel⟩

/-- The invariant, for a state with no record, table entry or pending byte and a legal cursor, sink, latch and
assembler. -/
theorem inv_of_quiet {s : State} (hm : s.mem.wf = true) (hc : s.bcPos.toNat ≤ s.bcLen.toNat)
    (hw : s.bwPos.toNat ≤ s.bwCap.toNat) (he : s.err = false) (hk : s.errCause = .none ∧ s.errCmd = 0)
    (hp : s.pending = []) (hq : s.queue = []) (ht : s.bssTable = []) (hn : s.sfaN ≤ 5)
    (hi : s.recRegs.info.toNat < 2 ^ 23) (hs : ∀ g, some g ∈ s.hasSlots.toList → GroupOk g) : Inv s where
  memWf := hm
  cursor := hc
  sink := hw
  latch := ⟨fun _ => hk, fun h => by simp [he] at h⟩
  pendingHeld := .inl hp
  pendingShort := by simp [hp]
  queueDepth := by simp [hq]
  bodies := by simp [hq]
  tableSize := by simp [ht]
  tablePrns := by simp [ht]
  entries := by simp [ht]
  tableKind := by simp [ht]
  slots := hs
  dataParts := hn
  recInfo := hi

theorem inv_start : Inv start :=
  inv_of_quiet (by decide +kernel) (by decide +kernel) (by decide +kernel) rfl ⟨rfl, rfl⟩ rfl rfl rfl (by decide +kernel)
    (by decide +kernel) (by simp [start, State.powerOn])

theorem inv_offering (v : Word) : Inv (offering v) :=
  inv_of_quiet rfl le_rfl le_rfl rfl ⟨rfl, rfl⟩ rfl rfl rfl (Nat.zero_le 5) (Nat.two_pow_pos 23) (by simp [offering, args, start, State.powerOn])

theorem inv_parityHeld : Inv parityHeld :=
  inv_of_quiet (by decide +kernel) (by decide +kernel) (by decide +kernel) rfl ⟨rfl, rfl⟩ rfl rfl rfl (by decide +kernel)
    (by decide +kernel) fun g hg => by
      have h : parityHeld.hasSlots.toList = none :: none :: some ⟨2, [(33, parityPage)]⟩ :: List.replicate 28 none := by
        decide +kernel
      have hg : g = ⟨2, [(33, parityPage)]⟩ := by simpa [h] using hg
      subst hg
      exact ⟨by decide, by decide, by simp, by decide +kernel⟩

/-- The first page of a group of one, the second of a group of two, and a page that cannot decode (H-2). -/
theorem witness_HasPageCompletionDecodes :
    (Inv (offering 0x0B010301) ∧ ValidPage (offering 0x0B010301) ∧ HeldPages (offering 0x0B010301) [] ∧
      ([] : List (Nat × List Byte)).length + 1 = msOf (offering 0x0B010301)) ∧
    (Inv parityHeld ∧ ValidPage parityHeld ∧ HeldPages parityHeld [(33, parityPage)] ∧
      (∀ y, (pidOf parityHeld, y) ∉ [(33, parityPage)]) ∧ [(33, parityPage)].length + 1 = msOf parityHeld) ∧
    hasSolve ⟨0, []⟩ 1 [(1, List.replicate 53 0)] = some (List.replicate 53 0) ∧
    hasSolve ⟨0, []⟩ 1 [(2, List.replicate 53 0)] = none :=
  ⟨⟨inv_offering _, valid_offering_one, .inl (by decide +kernel), by decide +kernel⟩,
    ⟨inv_parityHeld, valid_parityHeld, held_parityHeld, fun y h => absurd
      (show pidOf parityHeld = 33 from congrArg Prod.fst (List.mem_singleton.1 h)) (by decide +kernel), by decide +kernel⟩,
    by decide +kernel, by decide +kernel⟩

/-- A full queue. -/
def fullQueue : State := { start with queue := List.replicate 8 queued }

theorem witness_EmitDropsOnlyWhenFull :
    fullQueue.queue.length = 8 ∧ ({ start with queue := List.replicate 7 queued } : State).queue.length ≠ 8 := by
  decide +kernel

theorem witness_RecPopRemovesOldest :
    start.mem.wf = true ∧ start.queue = [] ∧ fullQueue.queue = queued :: List.replicate 7 queued ∧
    (args 8190 0 fullQueue).arg0.toNat + queued.body.length ≤ Config.dmemSize ∧
    (queued.body ≠ [] ∧ Config.dmemSize < (args 8191 0 fullQueue).arg0.toNat + queued.body.length) ∧
    (candidate 193 0).body = [] := by decide +kernel

theorem witness_ScanFollowsClassification :
    start.pending = [] ∧ ({ start with pending := [0xD3] } : State).pending ≠ [] ∧
    classify 0 .rtcm3 [0xD3] = .needMore ∧ classify 0 .rtcm3 [0x00] = .noSync ∧
    classify 0 .rtcm3 [0xD3, 0, 0] = .err .lengthFail 1 ∧
    classify 0 .rtcm3 shortFrame = .ok 7 (plainFields 0xFFFF [0xFE]) := by decide +kernel

theorem witness_ClassificationIsBounded :
    ([0xD3] : List Byte) ≠ [] ∧ classify 0 .rtcm3 [0xD3] = .needMore ∧
    classify 0 .rtcm3 shortFrame = .ok 7 (plainFields 0xFFFF [0xFE]) ∧
    classify 0 .rtcm3 [0xD3, 0, 0] = .err .lengthFail 1 ∧
    classify 0 .rtcm3 [0xD3, 0x00, 0x01, 0xFE, 0x51, 0xD1, 0x4F] = .err .checksumFail 0 := by decide +kernel

/-- An Allystar frame of zeros with its two sums: of the region only `02 10 08 01` counts. -/
def zeroAllystar : List Byte :=
  [0xF1, 0xD9, 0x02, 0x10, 0x08, 0x01] ++ List.replicate 264 0 ++
    [0x1B, BitVec.ofNat 8 (268 * 0x02 + 267 * 0x10 + 266 * 0x08 + 265 * 0x01)]

/-- The NovAtel frame of D-N1. -/
def novatelFrame : List Byte :=
  [0xAA, 0x44, 0x12, 0x1C, 0xD2, 0x04, 0x00, 0x20, 0x04, 0x00] ++ List.replicate 18 0 ++
    [0xDE, 0xAD, 0xBE, 0xEF, 0x93, 0xFD, 0x7C, 0x02]

/-- The SBF frame of D-S1. -/
def sbfFrame : List Byte := [0x24, 0x40, 0x78, 0xDA, 0xE5, 0x2F, 0x0C, 0x00, 0x01, 0x02, 0x03, 0x04]

/-- Bytes of every framing kind: another first byte and a sync cut short; then, kind by kind, a length test and its
bounds, a whole frame, and a frame with a wrong check or no byte to spare. -/
theorem witness_KindsAcceptExactlyTheirFrames :
    ([0x00] ≠ (syncOf .novatel).take 1 ∧ ([0xAA, 0x44] : List Byte) = (syncOf .novatel).take 2) ∧
    (shortFrame ≠ [] ∧ shortFrame.take 1 = syncOf .rtcm3 ∧ num shortFrame 1 < 4 ∧ shortFrame.length = 1 + 6 ∧
      ((shortFrame.take 4).foldl crcBits 0).toNat = 256 * numBe shortFrame 4 + num shortFrame 6) ∧
    (zeroAllystar.take 4 = syncOf .allystar ∧ numLe zeroAllystar 4 = 264 ∧ zeroAllystar.length = 272 ∧
      num zeroAllystar 270 = fletcherA ((zeroAllystar.drop 2).take 268) ∧
      num zeroAllystar 271 = fletcherB ((zeroAllystar.drop 2).take 268)) ∧
    (let h : List Byte := [0xAA, 0x44, 0x12, 0x0A, 0, 0, 0, 0, 0xF2, 0x07];
      h.take 3 = syncOf .novatel ∧ num h 3 = 10 ∧ 10 ≤ h.length ∧ num h 3 + numLe h 8 + 4 = 2048) ∧
    (novatelFrame.take 3 = syncOf .novatel ∧ num novatelFrame 3 = 28 ∧ numLe novatelFrame 8 = 4 ∧
      novatelFrame.length = 36 ∧ crc32Sum (novatelFrame.take 32) = numLe novatelFrame 32 + 65536 * numLe novatelFrame 34) ∧
    (sbfFrame.take 2 = syncOf .sbf ∧ numLe sbfFrame 6 = 12 ∧ sbfFrame.length = 12 ∧
      crc16Sum ((sbfFrame.drop 4).take 8) = numLe sbfFrame 2) ∧
    (let f : List Byte := [0xB5, 0x62, 0x02, 0x13, 0x04, 0x00, 0x01, 0x02, 0x03, 0x04, 0x23, 0xC1];
      f.take 2 = syncOf .ubx ∧ numLe f 4 = 4 ∧ f.length = 12 ∧ num f 10 = fletcherA ((f.drop 2).take 8) ∧
        num f 11 = fletcherB ((f.drop 2).take 8) ∧ num (f.set 11 0) 11 ≠ fletcherB ((f.drop 2).take 8)) ∧
    (([0x1A, 0xCF, 0xFC, 0x1D] : List Byte).take 4 = syncOf .rawL6 ∧ (List.replicate 33 (0 : Byte)).length = 33) := by
  decide +kernel

/-- The selector on, the PIN on satellite 199. -/
def selecting (bss pin : Bool) : State := { start with dmxCfg := ⟨.allystar, bss, pin, 199⟩ }

theorem witness_DeliverCountsAndFilters :
    ({ queued with errmap := 4 } : Record).errmap ≠ 0 ∧
    ((candidate 193 0x28).errmap = 0 ∧ (selecting true true).dmxCfg.pinEn = true ∧
      (selecting true true).dmxCfg.kind ∈ [Kind.allystar, Kind.rawL6, Kind.rawL1s, Kind.rawE6b, Kind.rawB2b] ∧
      (candidate 193 0x28).prn.toInt ≠ (selecting true true).dmxCfg.pinPrn.toInt) ∧
    (candidate 199 0x28).prn.toInt = (selecting true true).dmxCfg.pinPrn.toInt ∧
    (selecting true false).dmxCfg.pinEn = false ∧
    (withKind .rtcm3 start).dmxCfg.kind ∉ [Kind.allystar, Kind.rawL6, Kind.rawL1s, Kind.rawE6b, Kind.rawB2b] ∧
    ((selecting true true).dmxCfg.kind = .allystar ∧ (selecting true true).dmxCfg.bssEn = true) ∧
    (selecting false true).dmxCfg.bssEn = false ∧ (withKind .rtcm3 start).dmxCfg.kind ≠ .allystar := by decide +kernel

theorem witness_DmxBytePushesOneByte : ∃ t, t = scanAll { start with emitted := 0, pending := start.pending ++ [0xD3] } :=
  ⟨_, rfl⟩

theorem witness_DmxFeedPushesBytesInOrder :
    (∃ t, t = (start.mem.readBytes start.arg0.toNat start.arg1.toNat).foldl
      (fun u b => scanAll { u with pending := u.pending ++ [b] }) { start with emitted := 0 }) ∧
    ((args 9000 0 start).arg1.toNat = 0) ∧
    ((args 8190 2 start).arg0.toNat + (args 8190 2 start).arg1.toNat ≤ Config.dmemSize) ∧
    (1 ≤ (args 8190 3 start).arg1.toNat ∧
      Config.dmemSize < (args 8190 3 start).arg0.toNat + (args 8190 3 start).arg1.toNat) :=
  ⟨⟨_, rfl⟩, by decide +kernel, by decide +kernel, by decide +kernel⟩

theorem witness_DmxEosClosesStream :
    ∃ t, t = bssClose { start with
      emitted := 0
      cntSkip := start.cntSkip + BitVec.ofNat 32 start.pending.length
      pending := [] } := ⟨_, rfl⟩

/-- A table of one tick, entries `pre ++ e :: post`. -/
def twoCandidates : State := { start with bssTable := [candidate 193 0x28, candidate 199 0x2D], bssTow := 345600 }

theorem witness_TickCloseEmitsBestSatellite : start.bssTable = [] ∧ twoCandidates.bssTable ≠ [] := by decide +kernel

/-- 32 entries with distinct PRNs. -/
def fullTable : State :=
  { start with bssTable := (List.range 32).map (fun n => candidate (BitVec.ofNat 32 n) 0), bssTow := 345600 }

theorem witness_BssOfferKeepsLatestPerSatellite :
    (twoCandidates.bssTable ≠ [] ∧ ({ candidate 193 0 with tow := 345601 } : Record).tow ≠ twoCandidates.bssTow) ∧
    start.bssTable = [] ∧
    (twoCandidates.bssTable ≠ [] ∧ (candidate 199 0).tow = twoCandidates.bssTow) ∧
    (twoCandidates.bssTable = [candidate 193 0x28] ++ candidate 199 0x2D :: [] ∧
      (candidate 199 0x2D).prn = (candidate 199 0).prn ∧
      ∀ x ∈ [candidate 193 0x28] ++ [], x.prn ≠ (candidate 199 0).prn) ∧
    ((∀ e ∈ twoCandidates.bssTable, e.prn ≠ (candidate 200 0).prn) ∧ twoCandidates.bssTable.length < 32) ∧
    ((candidate 200 0).tow = fullTable.bssTow ∧ (∀ e ∈ fullTable.bssTable, e.prn ≠ (candidate 200 0).prn) ∧
      32 ≤ fullTable.bssTable.length) := by decide +kernel

/-- The assembler holding `n` data parts of PRN 0xC7, vendor 1, with the frame of P4 to come. -/
def assembling (n : Nat) (mtid : Byte) : State := { l6Stored 0xC7 mtid with sfaN := n, sfaPrn := 0xC7, sfaVendor := 1 }

theorem inRange_assembling (n : Nat) (mtid : Byte) : FrameInRange (assembling n mtid) :=
  ⟨show 0x400 + 250 ≤ 8192 by decide, show 0x800 + 1060 ≤ 8192 by decide⟩

theorem witness_SfaPushReportsUnusableFrames :
    ¬ FrameInRange { start with sfaBase := 7133 } ∧
    (FrameInRange { start with sfaBase := 7132, arg0 := 7942 } ∧
      framePreamble { start with sfaBase := 7132, arg0 := 7942 } ≠ 0x1ACFFC1D) ∧
    (FrameInRange (assembling 4 0x40) ∧ framePreamble (assembling 4 0x40) = 0x1ACFFC1D ∧
      frameMtid (assembling 4 0x40) % 2 = 0 ∧ 1 ≤ (assembling 4 0x40).sfaN ∧ (assembling 4 0x40).sfaN ≤ 4 ∧
      frameMtid (assembling 4 0x40) / 32 ≠ (assembling 4 0x40).sfaVendor.toNat) ∧
    (framePreamble (assembling 0 0x20) = 0x1ACFFC1D ∧ frameMtid (assembling 0 0x20) % 2 = 0 ∧
      (assembling 0 0x20).sfaN = 0 ∧ 5 ≤ (assembling 5 0x20).sfaN) :=
  ⟨fun h => absurd h.2 (by decide +kernel), ⟨⟨by decide +kernel, by decide +kernel⟩, by decide +kernel⟩,
    ⟨inRange_assembling _ _, by decide +kernel⟩, by decide +kernel⟩

theorem witness_SfaPushStartsSubframe :
    (assembling 4 0x21).mem.wf = true ∧ FrameInRange (assembling 4 0x21) ∧
    framePreamble (assembling 4 0x21) = 0x1ACFFC1D ∧ frameMtid (assembling 4 0x21) % 2 = 1 ∧
    ∃ t, t = if 1 ≤ (assembling 4 0x21).sfaN ∧ (assembling 4 0x21).sfaN ≤ 4
      then emit (sfRec (assembling 4 0x21) .sfFlush (assembling 4 0x21).sfaPrn.toNat (frameMtid (assembling 4 0x21))
        (1695 * (assembling 4 0x21).sfaN) (assembling 4 0x21).sfaN) (assembling 4 0x21)
      else assembling 4 0x21 :=
  ⟨by decide +kernel, inRange_assembling _ _, by decide +kernel, by decide +kernel, ⟨_, rfl⟩⟩

/-- The third and the last data part. -/
theorem witness_SfaPushAppendsDataPart :
    (assembling 3 0x20).mem.wf = true ∧ FrameInRange (assembling 3 0x20) ∧
    (framePreamble (assembling 3 0x20) = 0x1ACFFC1D ∧ frameMtid (assembling 3 0x20) % 2 = 0 ∧
      1 ≤ (assembling 3 0x20).sfaN ∧ (assembling 3 0x20).sfaN < 4 ∧
      framePrn (assembling 3 0x20) = (assembling 3 0x20).sfaPrn.toNat ∧
      frameMtid (assembling 3 0x20) / 32 = (assembling 3 0x20).sfaVendor.toNat) ∧ (assembling 4 0x20).sfaN = 4 :=
  ⟨by decide +kernel, inRange_assembling _ _, by decide +kernel, by decide +kernel⟩

/-- A block at work: an error latched, a byte pending, a candidate in the table and a record queued. -/
def working : State :=
  { view 0 16 4 start with
    err := true
    errCause := .short
    errCmd := 0x10000041
    dmxCfg := ⟨.allystar, true, false, 0⟩
    pending := [0xF1]
    bssTable := [candidate 193 0x28]
    bssTow := 345600
    queue := [queued]
    bus := [.csrWrite cmdIndex 0x380000D9] }

theorem inv_working : Inv working where
  memWf := by decide +kernel
  cursor := by decide +kernel
  sink := by decide +kernel
  latch := ⟨fun h => absurd h (by decide +kernel), fun _ => by decide +kernel⟩
  pendingHeld := .inr (by decide +kernel)
  pendingShort := by decide +kernel
  queueDepth := by decide +kernel
  bodies := by decide +kernel
  tableSize := by decide +kernel
  tablePrns := by decide +kernel
  entries := fun r hr => by
    obtain rfl : r = candidate 193 0x28 := List.mem_singleton.1 hr
    exact ⟨rfl, rfl, rfl, by decide +kernel⟩
  tableKind := fun _ => ⟨rfl, rfl⟩
  slots := by simp [working, view, start, State.powerOn]
  dataParts := by decide +kernel
  recInfo := by decide +kernel

theorem witness_StepKeepsInvariant : Inv working ∧ step working = .next (stepped working) := ⟨inv_working, rfl⟩

end Sys2Proof.Tests
end

section
/-! PROOFS. Words made of fields, as numbers. -/

namespace Sys2Proof.Proofs.Words

open Sys2Proof Sys2Proof.Machine

/-- Concatenation in numbers: the left field above the right one. -/
theorem toNat_append_eq_add {v w : Nat} (x : BitVec v) (y : BitVec w) :
    (x ++ y).toNat = x.toNat * 2 ^ w + y.toNat := by
  rw [BitVec.toNat_append, ← Nat.shiftLeft_add_eq_or_of_lt y.isLt, Nat.shiftLeft_eq]

/-- `REC_INFO[31:23]` reads 0 (R43). -/
theorem info_toNat_lt (r : Record) : r.info.toNat < 2 ^ 23 := by
  simp only [Record.info, toNat_append_eq_add, BitVec.ofNat_eq_ofNat,
    BitVec.toNat_ofNat]
  omega

end Sys2Proof.Proofs.Words
end

section
/-! PROOFS. What every step keeps (O60): the invariant split into the parts that commands write, the bounds of
classification, and one lemma per operation. -/

namespace Sys2Proof.Proofs.Invariant

open Sys2Proof Sys2Proof.Machine Sys2Proof.Safety Sys2Proof.Laws

/-! ### The parts of the invariant, as properties of the fields they speak of -/

/-- The latch clause of `Inv` (R23 to R25). -/
def LatchOk (err : Bool) (cause : Cause) (word : Word) : Prop :=
  (err = false → cause = .none ∧ word = 0) ∧ (err = true → cause ≠ .none)

/-- The queue clauses of `Inv` (R55). -/
structure QueueOk (q : List Record) : Prop where
  depth : q.length ≤ Config.recqDepth
  bodies : ∀ r ∈ q, r.body.length ≤ Config.dmxMaxLen

/-- The table clauses of `Inv` (R54), for a table of the tick `tow`. -/
structure TableOk (cfg : DmxCfg) (tow : Word) (table : List Record) : Prop where
  size : table.length ≤ Config.bssSlots
  prns : (table.map (·.prn)).Nodup
  entries : ∀ r ∈ table, r.kind = .allystar ∧ r.errmap = 0 ∧ r.tow = tow ∧ r.body.length ≤ Config.dmxMaxLen
  kind : table ≠ [] → cfg.kind = .allystar ∧ cfg.bssEn = true

/-- The slot clause of `Inv` (R56). -/
def SlotsOk (slots : Vector (Option HasGroup) 31) : Prop := ∀ g, some g ∈ slots.toList → GroupOk g

/-- The pending clauses of `Inv` (R175), for the parameter and the kind that classification reads. -/
def PendingOk (init : BitVec 24) (k : Kind) (p : List Byte) : Prop :=
  (p = [] ∨ classify init k p = .needMore) ∧ p.length < Config.dmxMaxLen

/-- `Inv` but for the pending bytes: it also holds between two turns of the scan, when they are not settled. -/
structure CoreInv (s : State) : Prop where
  memWf : s.mem.wf = true
  cursor : s.bcPos.toNat ≤ s.bcLen.toNat
  sink : s.bwPos.toNat ≤ s.bwCap.toNat
  latch : LatchOk s.err s.errCause s.errCmd
  queue : QueueOk s.queue
  table : TableOk s.dmxCfg s.bssTow s.bssTable
  slots : SlotsOk s.hasSlots
  dataParts : s.sfaN ≤ 5
  recInfo : s.recRegs.info.toNat < 2 ^ 23

theorem coreInv_of_inv {s : State} (h : Inv s) : CoreInv s where
  memWf := h.memWf
  cursor := h.cursor
  sink := h.sink
  latch := h.latch
  queue := ⟨h.queueDepth, h.bodies⟩
  table := ⟨h.tableSize, h.tablePrns,
    fun r hr => let e := h.entries r hr; ⟨e.kind, e.clean, e.tick, e.bodyLen⟩, h.tableKind⟩
  slots := h.slots
  dataParts := h.dataParts
  recInfo := h.recInfo

theorem pendingOk_of_inv {s : State} (h : Inv s) : PendingOk s.params.crc24qInit s.dmxCfg.kind s.pending :=
  ⟨h.pendingHeld, h.pendingShort⟩

theorem inv_of_parts {s : State} (h : CoreInv s) (hp : PendingOk s.params.crc24qInit s.dmxCfg.kind s.pending) :
    Inv s where
  memWf := h.memWf
  cursor := h.cursor
  sink := h.sink
  latch := h.latch
  pendingHeld := hp.1
  pendingShort := hp.2
  queueDepth := h.queue.depth
  bodies := h.queue.bodies
  tableSize := h.table.size
  tablePrns := h.table.prns
  entries := fun r hr => by
    obtain ⟨hk, hc, ht, hb⟩ := h.table.entries r hr
    exact ⟨hk, hc, ht, hb⟩
  tableKind := h.table.kind
  slots := h.slots
  dataParts := h.dataParts
  recInfo := h.recInfo

/-- Between two host accesses it is enough to keep the core and what classification reads. -/
theorem inv_of_core {s t : State} (h : Inv s) (hc : CoreInv t) (hi : SameInput s t) : Inv t := by
  obtain ⟨hp, hcfg, hpar⟩ := hi
  refine inv_of_parts hc ?_
  rw [hp, hcfg, hpar]
  exact pendingOk_of_inv h

theorem pendingOk_nil (init : BitVec 24) (k : Kind) : PendingOk init k [] := ⟨.inl rfl, by decide⟩

theorem queueOk_nil : QueueOk [] := ⟨by decide, by simp⟩

theorem tableOk_nil (cfg : DmxCfg) (tow : Word) : TableOk cfg tow [] := ⟨by decide, by simp, by simp, by simp⟩

theorem slotsOk_empty : SlotsOk (Vector.replicate 31 none) := by simp [SlotsOk]

/-! ### Classification is bounded (R173, R175) -/

/-- The bounds of every outcome of `Classify(P)`: what waits is short, what is rejected has one of the two error codes
with its bit, and an accepted frame is part of `P` and holds its record's body. -/
def BoundedClass (p : List Byte) : Machine.Class → Prop
  | .needMore => p.length < Config.dmxMaxLen
  | .noSync => True
  | .err code bit => (code = .checksumFail ∧ bit = 0) ∨ (code = .lengthFail ∧ bit = 1)
  | .ok n f => 1 ≤ n ∧ n ≤ p.length ∧ n ≤ Config.dmxMaxLen ∧ f.body.length ≤ n

theorem bounded_lengthError (p : List Byte) : BoundedClass p lengthError := .inr ⟨rfl, rfl⟩

theorem bounded_checksumError (p : List Byte) : BoundedClass p checksumError := .inl ⟨rfl, rfl⟩

theorem bounded_need {p : List Byte} {n : Nat} {rest : Machine.Class} (hn : n ≤ Config.dmxMaxLen)
    (h : n ≤ p.length → BoundedClass p rest) : BoundedClass p (need p n rest) := by
  unfold need
  split_ifs with hp
  · exact hp.trans_le hn
  · exact h (not_lt.1 hp)

/-- The sync test waits only for bytes of the pattern. -/
theorem syncMatch_cases (p sync : List Byte) :
    syncMatch p sync = none ∨ syncMatch p sync = some .noSync ∨
      (syncMatch p sync = some .needMore ∧ p.length < sync.length) := by
  by_cases ht : p.take sync.length = sync.take p.length
  · by_cases hl : p.length < sync.length
    · exact .inr (.inr ⟨syncMatch_of_prefix hl (by rwa [List.take_of_length_le hl.le] at ht), hl⟩)
    · exact .inl (syncMatch_of_take (by rwa [List.take_of_length_le (not_lt.1 hl)] at ht))
  · exact .inr (.inl (syncMatch_of_ne ht))

theorem bounded_afterSync {p sync : List Byte} {rest : Machine.Class} (hs : sync.length ≤ Config.dmxMaxLen)
    (h : BoundedClass p rest) : BoundedClass p (afterSync p sync rest) := by
  unfold afterSync
  rcases syncMatch_cases p sync with hm | hm | ⟨hm, hl⟩ <;> rw [hm]
  · exact h
  · trivial
  · exact hl.trans_le hs

theorem slice_length_le (p : List Byte) (a b : Nat) : (slice p a b).length ≤ b - a := List.length_take_le _ _

theorem slice_length_le_end (p : List Byte) {a b n : Nat} (h : b ≤ n) : (slice p a b).length ≤ n :=
  (slice_length_le p a b).trans ((Nat.sub_le b a).trans h)

theorem bounded_rtcm (init : BitVec 24) (p : List Byte) : BoundedClass p (classifyRtcm init p) := by
  have hlen : 256 * ((byteAt p 1).toNat % 4) + (byteAt p 2).toNat ≤ 1023 := by
    have := (byteAt p 2).isLt
    omega
  simp only [classifyRtcm]
  generalize 256 * ((byteAt p 1).toNat % 4) + (byteAt p 2).toNat = len at hlen ⊢
  split
  · trivial
  refine bounded_need (by decide) fun _ => ?_
  split
  · trivial
  refine bounded_need (by decide) fun _ => ?_
  split
  · exact bounded_lengthError p
  refine bounded_need (show len + 6 ≤ 2048 by omega) fun hp => ?_
  split
  · exact bounded_checksumError p
  exact ⟨by omega, hp, show len + 6 ≤ 2048 by omega, slice_length_le_end p (by omega)⟩

theorem bounded_allystar (p : List Byte) : BoundedClass p (classifyAllystar p) := by
  refine bounded_afterSync (by decide) (bounded_need (by decide) fun _ => ?_)
  split
  · exact bounded_lengthError p
  refine bounded_need (by decide) fun hp => ?_
  split
  · exact bounded_checksumError p
  exact ⟨by decide, hp, by decide, slice_length_le_end p (by decide)⟩

theorem bounded_novatel (p : List Byte) : BoundedClass p (classifyNovatel p) := by
  refine bounded_afterSync (by decide) (bounded_need (by decide) fun _ => ?_)
  split
  · exact bounded_lengthError p
  refine bounded_need (by decide) fun _ => ?_
  split
  · exact bounded_lengthError p
  rename_i hm
  obtain ⟨-, hm⟩ := not_or.1 hm
  refine bounded_need (not_lt.1 hm) fun hp => ?_
  split
  · exact bounded_checksumError p
  exact ⟨by omega, hp, not_lt.1 hm, slice_length_le_end p (by omega)⟩

theorem bounded_sbf (p : List Byte) : BoundedClass p (classifySbf p) := by
  refine bounded_afterSync (by decide) (bounded_need (by decide) fun _ => ?_)
  split
  · exact bounded_lengthError p
  rename_i hn
  simp only [not_or, not_lt] at hn
  obtain ⟨-, -, h8, hn⟩ := hn
  refine bounded_need hn fun hp => ?_
  split
  · exact bounded_checksumError p
  exact ⟨by omega, hp, hn, slice_length_le_end p le_rfl⟩

theorem bounded_ubx (p : List Byte) : BoundedClass p (classifyUbx p) := by
  refine bounded_afterSync (by decide) (bounded_need (by decide) fun _ => ?_)
  split
  · exact bounded_lengthError p
  rename_i hn
  obtain ⟨-, hn⟩ := not_or.1 hn
  refine bounded_need (not_lt.1 hn) fun hp => ?_
  split
  · exact bounded_checksumError p
  exact ⟨by omega, hp, not_lt.1 hn, slice_length_le_end p (by omega)⟩

theorem bounded_rawL6 (p : List Byte) : BoundedClass p (classifyRawL6 p) :=
  bounded_afterSync (by decide) (bounded_need (by decide) fun hp =>
    ⟨by decide, hp, by decide, slice_length_le_end p le_rfl⟩)

theorem bounded_rawFixed {t bits : Nat} (p : List Byte) (h1 : 1 ≤ t) (ht : t ≤ Config.dmxMaxLen) :
    BoundedClass p (classifyRawFixed t bits p) :=
  bounded_need ht fun hp => ⟨h1, hp, ht, slice_length_le_end p le_rfl⟩

theorem classify_bounded (init : BitVec 24) (k : Kind) (p : List Byte) : BoundedClass p (classify init k p) := by
  cases k with
  | none => trivial
  | rtcm3 => exact bounded_rtcm init p
  | allystar => exact bounded_allystar p
  | novatel => exact bounded_novatel p
  | sbf => exact bounded_sbf p
  | ubx => exact bounded_ubx p
  | rawL6 => exact bounded_rawL6 p
  | rawL1s => exact bounded_rawFixed p (by decide) (by decide)
  | rawE6b => exact bounded_rawFixed p (by decide) (by decide)
  | rawB2b => exact bounded_rawFixed p (by decide) (by decide)

theorem classify_needMore_short {init : BitVec 24} {k : Kind} {p : List Byte} (h : classify init k p = .needMore) :
    p.length < Config.dmxMaxLen := by
  have hb := classify_bounded init k p
  rw [h] at hb
  exact hb

theorem classify_ok_bounds {init : BitVec 24} {k : Kind} {p : List Byte} {n : Nat} {f : FrameFields}
    (h : classify init k p = .ok n f) :
    1 ≤ n ∧ n ≤ p.length ∧ n ≤ Config.dmxMaxLen ∧ f.body.length ≤ n := by
  have hb := classify_bounded init k p
  rw [h] at hb
  exact hb

end Sys2Proof.Proofs.Invariant
end

section
/-! PROOFS. What every step keeps (O60): one lemma per operation, then the commands and the step. -/

namespace Sys2Proof.Proofs.Invariant

open Sys2Proof Sys2Proof.Machine Sys2Proof.Safety Sys2Proof.Laws Sys2Proof.Proofs.Words

/-! ### Shared operations -/

theorem core_setRes {s : State} (h : CoreInv s) (v : Nat) : CoreInv (setRes v s) := { h with }

theorem core_advanceCursor {s : State} (h : CoreInv s) {n : Nat} (hn : s.bcPos.toNat + n ≤ s.bcLen.toNat) :
    CoreInv (advanceCursor n s) :=
  { h with cursor := (BitVec.toNat_ofNat .. ▸ Nat.mod_le _ _).trans hn }

/-- A command error latches a cause, the first one (R251). -/
theorem core_raiseCmdError {s : State} (h : CoreInv s) {c : Cause} (hc : c ≠ .none) (w : Word) :
    CoreInv (raiseCmdError c w s) where
  memWf := h.memWf
  cursor := h.cursor
  sink := h.sink
  latch := by
    refine ⟨fun he => absurd he (by simp), fun _ => ?_⟩
    rw [raiseCmdError_errCause]
    split_ifs with he
    · exact h.latch.2 he
    · exact hc
  queue := h.queue
  table := h.table
  slots := h.slots
  dataParts := h.dataParts
  recInfo := h.recInfo

theorem core_emit {s : State} (h : CoreInv s) {r : Record} (hr : r.body.length ≤ Config.dmxMaxLen) :
    CoreInv (emit r s) where
  memWf := by simpa using h.memWf
  cursor := by simpa using h.cursor
  sink := by simpa using h.sink
  latch := by simpa using h.latch
  queue := ⟨emit_queue_length_le h.queue.depth, fun q hq => by
    rcases mem_emit_queue hq with rfl | hq
    · exact hr
    · exact h.queue.bodies q hq⟩
  table := by simpa using h.table
  slots := by simpa using h.slots
  dataParts := by simpa using h.dataParts
  recInfo := by simpa using h.recInfo

theorem inv_emit {s : State} (h : Inv s) {r : Record} (hr : r.body = []) : Inv (emit r s) :=
  inv_of_core h (core_emit (coreInv_of_inv h) (by simp [hr])) (emit_sameInput r s)

theorem inv_withMem {s : State} (h : Inv s) {m : Memory} (hm : m.wf = true) : Inv { s with mem := m } :=
  inv_of_core h { coreInv_of_inv h with memWf := hm } ⟨rfl, rfl, rfl⟩

/-- The reset actions leave a state that meets the invariant, whatever DMEM they leave (R280, R281). -/
theorem inv_powerOn (p : Config.Params) (init : List Byte) {m : Memory} (hm : m.wf = true) (bus : List BusAccess)
    (busOut : List Word) : Inv { State.powerOn p init with mem := m, bus := bus, busOut := busOut } :=
  inv_of_parts
    { memWf := hm
      cursor := le_rfl
      sink := le_rfl
      latch := ⟨fun _ => ⟨rfl, rfl⟩, fun he => absurd he (by simp [State.powerOn])⟩
      queue := queueOk_nil
      table := tableOk_nil _ _
      slots := slotsOk_empty
      dataParts := Nat.zero_le 5
      recInfo := Nat.two_pow_pos 23 }
    (pendingOk_nil _ _)

theorem inv_softReset {s : State} (h : Inv s) : Inv (softReset s) := inv_powerOn _ _ h.memWf _ _

theorem inv_powerOnReset (s : State) : Inv (powerOnReset s) :=
  inv_powerOn s.params s.mem.init ((wf_iff ⟨s.mem.init, []⟩).2 ⟨.nil, by simp⟩) s.bus s.busOut

/-! ### The end of a command -/

/-- A command's result keeps the invariant: the state it reached meets it, and its error has a cause. -/
def ResultOk : Except Cause State → Prop
  | .ok t => Inv t
  | .error c => c ≠ .none

theorem inv_finish (i : Instr) {s t : State} {r : Except Cause State} (h : Inv s) (hr : ResultOk r)
    (ht : finish i s r = .next t) : Inv t := by
  rcases finish_cases ht with rfl | ⟨c, rfl, rfl⟩
  · exact hr
  · exact inv_of_core h (core_raiseCmdError (coreInv_of_inv h) hr _) ⟨rfl, rfl, rfl⟩

theorem resultOk_of_core {s t : State} (h : Inv s) (hc : CoreInv t) (hi : SameInput s t) :
    ResultOk (.ok t : Except Cause State) := inv_of_core h hc hi

theorem resultOk_setRes {s : State} (h : Inv s) (v : Nat) : ResultOk (.ok (setRes v s) : Except Cause State) :=
  resultOk_of_core h (core_setRes (coreInv_of_inv h) v) ⟨rfl, rfl, rfl⟩

/-! ### The view and the sink -/

/-- The view's checks: an error has a cause, and a read that passes keeps the cursor inside the view. -/
theorem viewRead_ok {n : Nat} {s : State} (h : Inv s) :
    (∃ c, viewRead n s = .error c ∧ c ≠ .none) ∨
      ∃ v, viewRead n s = .ok v ∧ s.bcPos.toNat + n ≤ s.bcLen.toNat := by
  rcases viewRead_cases n s with ⟨rfl, hv⟩ | ⟨-, -, hv⟩ | ⟨-, -, -, hv⟩ | ⟨-, hn, -, hv⟩
  · exact .inr ⟨_, hv, h.cursor⟩
  · exact .inl ⟨_, hv, by decide⟩
  · exact .inl ⟨_, hv, by decide⟩
  · exact .inr ⟨_, hv, hn⟩

theorem resultOk_readUnsigned {s : State} (h : Inv s) (n : Nat) : ResultOk (readUnsigned n s) := by
  unfold readUnsigned
  split
  · exact Cause.noConfusion
  rcases viewRead_ok (n := n) h with ⟨c, hv, hc⟩ | ⟨v, hv, hn⟩ <;> rw [hv]
  · exact hc
  · exact resultOk_of_core h (core_advanceCursor (core_setRes (coreInv_of_inv h) v) hn) ⟨rfl, rfl, rfl⟩

theorem resultOk_peekUnsigned {s : State} (h : Inv s) (n : Nat) : ResultOk (peekUnsigned n s) := by
  unfold peekUnsigned
  split
  · exact Cause.noConfusion
  rcases viewRead_ok (n := n) h with ⟨c, hv, hc⟩ | ⟨v, hv, -⟩ <;> rw [hv]
  · exact hc
  · exact resultOk_setRes h v

theorem resultOk_readSigned {s : State} (h : Inv s) (n : Nat) : ResultOk (readSigned n s) := by
  unfold readSigned
  split
  · exact Cause.noConfusion
  rcases viewRead_ok (n := n) h with ⟨c, hv, hc⟩ | ⟨u, hv, hn⟩ <;> rw [hv]
  · exact hc
  · have hcore : CoreInv { s with res := BitVec.ofInt 64 (signedField n u), inv := mostNegative n u } :=
      { coreInv_of_inv h with }
    exact resultOk_of_core h (core_advanceCursor hcore hn) ⟨rfl, rfl, rfl⟩

theorem resultOk_skipBits {s : State} (h : Inv s) (m : Nat) : ResultOk (skipBits m s) := by
  unfold skipBits
  split_ifs with hm
  · exact Cause.noConfusion
  · exact resultOk_of_core h (core_advanceCursor (coreInv_of_inv h) (not_lt.1 hm)) ⟨rfl, rfl, rfl⟩

theorem resultOk_sinkWrite {s : State} (h : Inv s) (n : Nat) (bit : Nat → Bool) : ResultOk (sinkWrite n bit s) := by
  rcases sinkWrite_cases n bit s with ⟨-, hw⟩ | ⟨-, -, -, hw⟩ | ⟨hn, -, hw⟩ <;> rw [hw]
  · exact Cause.noConfusion
  · exact Cause.noConfusion
  · exact resultOk_of_core h
      { coreInv_of_inv h with
        memWf := writeBits_wf h.memWf _ _ _ _
        sink := (BitVec.toNat_ofNat .. ▸ Nat.mod_le _ _).trans hn }
      ⟨rfl, rfl, rfl⟩

theorem resultOk_writeField {s : State} (h : Inv s) (n : Nat) : ResultOk (writeField n s) := by
  unfold writeField
  split
  · exact Cause.noConfusion
  · exact resultOk_sinkWrite h n _

/-! ### CRC-24Q and the RTCM encoder -/

theorem resultOk_withCrc {s : State} (h : Inv s) (c : BitVec 24) :
    ResultOk (.ok { s with crc := c } : Except Cause State) :=
  resultOk_of_core h { coreInv_of_inv h with } ⟨rfl, rfl, rfl⟩

theorem resultOk_foldDmem {s : State} (h : Inv s) : ResultOk (foldDmem s) := by
  unfold foldDmem
  split
  · exact resultOk_withCrc h _
  · exact Cause.noConfusion

theorem resultOk_checkTrailer {s : State} (h : Inv s) : ResultOk (checkTrailer s) := by
  unfold checkTrailer
  split
  · exact resultOk_of_core h { coreInv_of_inv h with } ⟨rfl, rfl, rfl⟩
  · exact Cause.noConfusion

theorem resultOk_encodeRtcm {s : State} (h : Inv s) : ResultOk (encodeRtcm s) := by
  simp only [encodeRtcm]
  split
  · exact Cause.noConfusion
  split
  · exact Cause.noConfusion
  · exact resultOk_setRes (inv_withMem h (writeBytes_wf h.memWf _ _)) _

/-! ### GF(2^8) -/

theorem resultOk_invert {s : State} (h : Inv s) : ResultOk (invert s) := by
  unfold invert
  split
  · exact Cause.noConfusion
  · exact resultOk_setRes h _

/-! ### Best-satellite selection (R195 to R197) -/

theorem core_bssClose {s : State} (h : CoreInv s) : CoreInv (bssClose s) := by
  rcases bssClose_cases s with ⟨-, hs⟩ | ⟨e, he, -, hs⟩ <;> rw [hs]
  · exact h
  · obtain ⟨-, -, -, hb⟩ := h.table.entries e he
    exact { core_emit h hb with table := tableOk_nil _ _ }

/-- Replacing an entry by one with its PRN leaves the PRNs as they were. -/
theorem replacePrn_prns (r : Record) (t : List Record) : (replacePrn r t).map (·.prn) = t.map (·.prn) := by
  simp only [replacePrn, List.map_map]
  refine List.map_congr_left fun e _ => ?_
  by_cases he : e.prn = r.prn <;> simp [he]

theorem mem_replacePrn {r x : Record} {t : List Record} (h : x ∈ replacePrn r t) : x = r ∨ x ∈ t := by
  obtain ⟨e, he, rfl⟩ := List.mem_map.1 h
  split_ifs
  · exact .inl rfl
  · exact .inr he

/-- What the table asks of a record offered to it, beyond its tick. -/
structure Offerable (s : State) (r : Record) : Prop where
  kind : r.kind = .allystar
  clean : r.errmap = 0
  body : r.body.length ≤ Config.dmxMaxLen
  selecting : s.dmxCfg.kind = .allystar ∧ s.dmxCfg.bssEn = true

theorem core_bssInsert {s : State} (h : CoreInv s) {r : Record} (hr : Offerable s r) (ht : r.tow = s.bssTow) :
    CoreInv (bssInsert r s) := by
  have hentry : r.kind = .allystar ∧ r.errmap = 0 ∧ r.tow = s.bssTow ∧ r.body.length ≤ Config.dmxMaxLen :=
    ⟨hr.kind, hr.clean, ht, hr.body⟩
  unfold bssInsert
  split_ifs with hany hroom
  · exact { h with
      table :=
        { size := by simpa [replacePrn] using h.table.size
          prns := by rw [replacePrn_prns]; exact h.table.prns
          entries := fun x hx => by
            rcases mem_replacePrn hx with rfl | hx
            · exact hentry
            · exact h.table.entries x hx
          kind := fun _ => hr.selecting } }
  · have hfresh : r.prn ∉ s.bssTable.map (·.prn) := by simpa using hany
    exact { h with
      table :=
        { size := by simpa using hroom
          prns := by
            rw [List.map_append]
            exact List.Nodup.append h.table.prns (by simp) (by simpa using hfresh)
          entries := fun x hx => by
            rcases List.mem_append.1 hx with hx | hx
            · exact h.table.entries x hx
            · exact List.mem_singleton.1 hx ▸ hentry
          kind := fun _ => hr.selecting } }
  · exact { h with }

/-- The first half of `BssOffer(rec)` (R195): a record of another tick closes the open one. -/
def closeOtherTick (r : Record) (s : State) : State :=
  if s.bssTable ≠ [] ∧ r.tow ≠ s.bssTow then bssClose s else s

theorem bssOffer_eq (r : Record) (s : State) :
    bssOffer r s = bssInsert r (if (closeOtherTick r s).bssTable = [] then
      { closeOtherTick r s with bssTow := r.tow } else closeOtherTick r s) := rfl

/-- Once another tick is closed, the table is empty or of the record's own tick. -/
theorem core_closeOtherTick {s : State} (h : CoreInv s) (r : Record) :
    CoreInv (closeOtherTick r s) ∧ (closeOtherTick r s).dmxCfg = s.dmxCfg ∧
      ((closeOtherTick r s).bssTable ≠ [] → r.tow = (closeOtherTick r s).bssTow) := by
  unfold closeOtherTick
  split_ifs with hc
  · obtain ⟨-, hcfg, -⟩ := bssClose_sameInput s
    refine ⟨core_bssClose h, hcfg, fun hne => absurd ?_ hne⟩
    rcases bssClose_cases s with ⟨he, -⟩ | ⟨e, -, -, hs⟩
    · exact absurd he hc.1
    · rw [hs]
  · exact ⟨h, rfl, fun hne => not_not.1 fun ht => hc ⟨hne, ht⟩⟩

theorem core_bssOffer {s : State} (h : CoreInv s) {r : Record} (hr : Offerable s r) : CoreInv (bssOffer r s) := by
  obtain ⟨ht, hcfg, htick⟩ := core_closeOtherTick h r
  rw [bssOffer_eq]
  generalize closeOtherTick r s = t at ht hcfg htick ⊢
  have hsel : t.dmxCfg.kind = .allystar ∧ t.dmxCfg.bssEn = true := hcfg ▸ hr.selecting
  split_ifs with he
  · have hopen : CoreInv { t with bssTow := r.tow } :=
      { ht with table := by rw [he]; exact tableOk_nil _ _ }
    exact core_bssInsert hopen { hr with selecting := hsel } rfl
  · exact core_bssInsert ht { hr with selecting := hsel } (htick he)

/-! ### Delivery and the scan (R172, R174, R180) -/

theorem core_deliver {s : State} (h : CoreInv s) {r : Record} (hk : r.kind = s.dmxCfg.kind)
    (hb : r.body.length ≤ Config.dmxMaxLen) : CoreInv (deliver r s) := by
  have hok : CoreInv { s with cntOk := s.cntOk + 1 } := { h with }
  simp only [deliver]
  split_ifs with he hp hsel
  · exact core_emit (s := { s with cntErr := s.cntErr + 1 }) { h with } hb
  · exact hok
  · exact core_bssOffer hok ⟨hk.trans hsel.1, not_not.1 he, hb, hsel⟩
  · exact core_emit hok hb

theorem core_skipByte {s : State} (h : CoreInv s) (rest : List Byte) : CoreInv (skipByte rest s) := { h with }

theorem core_rejectFrame {s : State} (h : CoreInv s) (code : RecCode) (bit : Nat) (rest : List Byte) :
    CoreInv (rejectFrame code bit rest s) :=
  { core_emit h (r := errorRecord s code bit) (Nat.zero_le _) with }

theorem core_scan (fuel : Nat) {s : State} (h : CoreInv s) : CoreInv (scan fuel s) := by
  refine scan_keeps (P := CoreInv) ?_ ?_ ?_ fuel h
  · intro s b rest _ h
    exact core_skipByte h rest
  · intro s b rest code bit _ h
    exact core_rejectFrame h code bit rest
  · intro s b rest n f _ hc h
    obtain ⟨-, -, hn, hf⟩ := classify_ok_bounds hc
    have hdrop : CoreInv { s with pending := (b :: rest).drop n } := { h with }
    exact core_deliver hdrop rfl (hf.trans hn)

/-- After a scan with a turn for every byte, what is pending is settled (R174, R175). -/
theorem pendingOk_scan {fuel : Nat} {s : State} (hl : s.pending.length ≤ fuel) :
    PendingOk s.params.crc24qInit s.dmxCfg.kind (scan fuel s).pending := by
  rcases scan_ends (fun _ _ _ _ _ _ h => (classify_ok_bounds h).1) fuel hl with hp | hc
  · rw [hp]
    exact pendingOk_nil _ _
  · exact ⟨.inr hc, classify_needMore_short hc⟩

theorem inv_push {s : State} (h : Inv s) (b : Byte) : Inv (push s b) := by
  have hcore : CoreInv { s with pending := s.pending ++ [b] } := { coreInv_of_inv h with }
  obtain ⟨hcfg, hpar⟩ := scan_config (s.pending.length + 1) { s with pending := s.pending ++ [b] }
  refine inv_of_parts (core_scan _ hcore) ?_
  simp only [push, hcfg, hpar]
  exact pendingOk_scan (by simp)

theorem inv_foldl_push (bs : List Byte) {s : State} (h : Inv s) : Inv (bs.foldl push s) := by
  induction bs generalizing s with
  | nil => exact h
  | cons b bs ih => exact ih (inv_push h b)

theorem inv_beginCommand {s : State} (h : Inv s) : Inv (beginCommand s) :=
  inv_of_core h { coreInv_of_inv h with } ⟨rfl, rfl, rfl⟩

theorem resultOk_pushAll {s : State} (h : Inv s) (bs : List Byte) :
    ResultOk (.ok (pushAll bs s) : Except Cause State) :=
  resultOk_setRes (inv_foldl_push bs (inv_beginCommand h)) _

theorem resultOk_feed {s : State} (h : Inv s) : ResultOk (feed s) := by
  unfold feed
  split
  · exact resultOk_pushAll h _
  · exact Cause.noConfusion

theorem resultOk_endOfStream {s : State} (h : Inv s) : ResultOk (.ok (endOfStream s) : Except Cause State) := by
  have hcore : CoreInv { s with
      emitted := 0, cntSkip := s.cntSkip + BitVec.ofNat 32 s.pending.length, pending := [] } :=
    { coreInv_of_inv h with }
  refine inv_of_parts (core_setRes (core_bssClose hcore) _) ?_
  obtain ⟨hp, -, -⟩ := bssClose_sameInput { s with
      emitted := 0, cntSkip := s.cntSkip + BitVec.ofNat 32 s.pending.length, pending := [] }
  simp only [endOfStream, setRes_pending, hp]
  exact pendingOk_nil _ _

theorem core_removeRecord {s : State} (h : CoreInv s) {r : Record} {rest : List Record} (hq : s.queue = r :: rest)
    (a : Nat) (bs : List Byte) :
    CoreInv { s with queue := rest, mem := s.mem.writeBytes a bs, recRegs := RecRegs.ofRecord r } := by
  obtain ⟨hd, hb⟩ := h.queue
  rw [hq] at hd hb
  exact { h with
    memWf := writeBytes_wf h.memWf _ _
    queue := ⟨(Nat.le_succ _).trans hd, fun x hx => hb x (List.mem_cons_of_mem _ hx)⟩
    recInfo := info_toNat_lt r }

theorem resultOk_popRecord {s : State} (h : Inv s) : ResultOk (popRecord s) := by
  unfold popRecord
  split
  · exact Cause.noConfusion
  rename_i r rest hq
  split
  · exact resultOk_of_core h (core_setRes (core_removeRecord (coreInv_of_inv h) hq _ _) _) ⟨rfl, rfl, rfl⟩
  · exact Cause.noConfusion

/-! ### HAS pages (R56, R146 to R155) -/

theorem hasRecord_body (s : State) (op : HasOperand) (code : RecCode) (msgid aux oldMs : Nat) :
    (hasRecord s op code msgid aux oldMs).body = [] := rfl

theorem groupOk_empty {ms : Nat} (h : 1 ≤ ms ∧ ms ≤ Config.hasMaxMs) : GroupOk ⟨ms, []⟩ :=
  ⟨h, h.1, .nil, by simp⟩

theorem groupOk_insertPage {g : HasGroup} (h : GroupOk g) {pid : Nat} (hpid : 1 ≤ pid ∧ pid ≤ 255) {y : List Byte}
    (hy : y.length = Config.hasPageBytes) (hfew : (insertPage pid y g.pages).length ≠ g.ms) :
    GroupOk { g with pages := insertPage pid y g.pages } where
  msRange := h.msRange
  fewer := by
    have := insertPage_length_le pid y g.pages
    have := h.fewer
    show (insertPage pid y g.pages).length < g.ms
    omega
  rising := rising_insertPage pid y h.rising
  pageOk := fun p hp => by
    rcases mem_insertPage hp with rfl | hp
    · exact ⟨hpid.1, hpid.2, hy⟩
    · exact h.pageOk p hp

theorem groupOk_slotOf {s : State} (h : CoreInv s) {mid : Nat} {g : HasGroup} (hg : slotOf s mid = some g) :
    GroupOk g := by
  refine h.slots g ?_
  have hv : s.hasSlots[mid - 1]? = some (some g) := by
    unfold slotOf at hg
    cases hv : s.hasSlots[mid - 1]? <;> simp_all
  simpa using Vector.mem_of_getElem? hv

theorem inv_setSlot {s : State} (h : Inv s) (mid : Nat) {o : Option HasGroup} (ho : ∀ g, o = some g → GroupOk g) :
    Inv (setSlot mid o s) :=
  inv_of_core h
    { coreInv_of_inv h with
      slots := fun g hg => by
        rw [setSlot, Vector.toList_setIfInBounds] at hg
        rcases List.mem_or_eq_of_mem_set hg with hg | hg
        · exact h.slots g hg
        · exact ho g hg.symm }
    ⟨rfl, rfl, rfl⟩

/-- The group a page joins is a legal one of the page's size (R150). -/
theorem inv_openGroup {op : HasOperand} {s : State} (h : Inv s) (hms : 1 ≤ op.ms ∧ op.ms ≤ Config.hasMaxMs) :
    Inv (openGroup op s).1 ∧ GroupOk (openGroup op s).2 ∧ (openGroup op s).2.ms = op.ms := by
  rcases openGroup_cases op s with ⟨-, ho⟩ | ⟨g, hg, hm, ho⟩ | ⟨g, -, -, ho⟩ <;> rw [ho]
  · exact ⟨h, groupOk_empty hms, rfl⟩
  · exact ⟨h, groupOk_slotOf (coreInv_of_inv h) hg, hm⟩
  · exact ⟨inv_emit h rfl, groupOk_empty hms, rfl⟩

theorem inv_withHasDone {s : State} (h : Inv s) : Inv { s with hasDone := true } :=
  inv_of_core h { coreInv_of_inv h with } ⟨rfl, rfl, rfl⟩

theorem inv_withHasFail {s : State} (h : Inv s) : Inv { s with hasFail := true } :=
  inv_of_core h { coreInv_of_inv h with } ⟨rfl, rfl, rfl⟩

theorem inv_completeGroup {s : State} (h : Inv s) (op : HasOperand) (g : HasGroup) : Inv (completeGroup op g s) := by
  unfold completeGroup
  split
  · exact inv_withHasDone (inv_emit (inv_withMem h (writeBytes_wf h.memWf _ _)) (hasRecord_body _ _ _ _ _ _))
  · exact inv_withHasFail (inv_emit h (hasRecord_body _ _ _ _ _ _))

/-- A page that does not complete its group leaves it one page short at least; one that does empties the slot. -/
theorem resultOk_offerPage {op : HasOperand} {y : List Byte} {s : State} (h : Inv s)
    (hms : 1 ≤ op.ms ∧ op.ms ≤ Config.hasMaxMs) (hpid : 1 ≤ op.pid ∧ op.pid ≤ 255)
    (hy : y.length = Config.hasPageBytes) : ResultOk (.ok (offerPage op y s) : Except Cause State) := by
  obtain ⟨hopen, hg, hm⟩ := inv_openGroup h hms
  simp only [offerPage]
  split_ifs with hfull
  · exact resultOk_setRes (inv_setSlot (inv_completeGroup hopen op _) op.mid (by simp)) 0
  · refine resultOk_setRes (inv_setSlot hopen op.mid fun g' hg' => ?_) _
    obtain rfl := Option.some.inj hg'
    exact groupOk_insertPage hg hpid hy (hm ▸ hfull)

theorem resultOk_rejectPage {s : State} (h : Inv s) (op : HasOperand) (code : RecCode) (msgid : Nat) :
    ResultOk (.ok (rejectPage op code msgid s) : Except Cause State) :=
  resultOk_setRes (inv_emit h (hasRecord_body _ _ _ _ _ _)) 0

theorem resultOk_pageCommand {s : State} (h : Inv s) {op : HasOperand} (hpid : op.pid ≤ 255) :
    ResultOk (pageCommand op s) := by
  unfold pageCommand
  split_ifs with ha hd hp hm hs
  · exact Cause.noConfusion
  · exact Cause.noConfusion
  · exact resultOk_rejectPage h op .badPid op.mid
  · exact resultOk_rejectPage h op .badMid 0
  · exact resultOk_rejectPage h op .badMs op.mid
  · exact resultOk_offerPage h ⟨by omega, show op.ms ≤ 32 by omega⟩ ⟨by omega, hpid⟩ (readBytes_length _ _ _)

theorem hasOperand_pid_le (w : Word) : (hasOperand w).pid ≤ 255 :=
  Nat.le_of_lt_succ (w.extractLsb' 0 8).isLt

theorem inv_clearSlots {s : State} (h : Inv s) : Inv { s with hasSlots := Vector.replicate 31 none } :=
  inv_of_core h { coreInv_of_inv h with slots := slotsOk_empty } ⟨rfl, rfl, rfl⟩

/-! ### The subframe assembler (R221 to R228) -/

theorem putDataPart_wf {m : Memory} (h : m.wf = true) (f : List Byte) (base k : Nat) :
    (putDataPart f base k m).wf = true := writeBits_wf h _ _ _ _

theorem sfRecord_body (s : State) (code : RecCode) (prn msgid : Byte) (aux ext : Nat) :
    (sfRecord s code prn msgid aux ext).body = [] := rfl

theorem inv_withSfDone {s : State} (h : Inv s) : Inv { s with sfDone := true } :=
  inv_of_core h { coreInv_of_inv h with } ⟨rfl, rfl, rfl⟩

theorem inv_withSfaN {s : State} (h : Inv s) {n : Nat} (hn : n ≤ 5) : Inv { s with sfaN := n } :=
  inv_of_core h { coreInv_of_inv h with dataParts := hn } ⟨rfl, rfl, rfl⟩

theorem inv_startSubframe {s : State} (h : Inv s) (f : List Byte) (l6 : L6Header) : Inv (startSubframe f l6 s) := by
  have hflushed : Inv (if sfOpen s then
      emit (sfRecord s .sfFlush s.sfaPrn l6.mtid (Config.dataPartBits * s.sfaN) s.sfaN) s else s) := by
    split_ifs
    · exact inv_emit h rfl
    · exact h
  exact inv_of_core hflushed
    { coreInv_of_inv hflushed with
      memWf := putDataPart_wf (writeBytes_wf hflushed.memWf _ _) _ _ _
      dataParts := show 1 ≤ 5 by decide }
    ⟨rfl, rfl, rfl⟩

theorem inv_appendDataPart {s : State} (h : Inv s) (hn : s.sfaN ≤ 4) (f : List Byte) (l6 : L6Header) :
    Inv (appendDataPart f l6 s) := by
  have happ : Inv { s with mem := putDataPart f s.sfaBase.toNat s.sfaN s.mem, sfaN := s.sfaN + 1 } :=
    inv_of_core h
      { coreInv_of_inv h with memWf := putDataPart_wf h.memWf _ _ _, dataParts := Nat.succ_le_succ hn }
      ⟨rfl, rfl, rfl⟩
  simp only [appendDataPart]
  split_ifs
  · exact inv_withSfDone (inv_emit happ (sfRecord_body _ _ _ _ _ _))
  · exact happ

theorem inv_abortSubframe {s : State} (h : Inv s) (l6 : L6Header) : Inv (abortSubframe l6 s) :=
  inv_withSfaN (inv_emit h (sfRecord_body _ _ _ _ _ _)) (Nat.zero_le 5)

theorem inv_assemble {s : State} (h : Inv s) (f : List Byte) : Inv (assemble f s) := by
  simp only [assemble]
  split_ifs with hpre hsfi hopen hsame
  · exact inv_emit h rfl
  · exact inv_startSubframe h f _
  · exact inv_appendDataPart h (by simp [sfOpen] at hopen; omega) f _
  · exact inv_abortSubframe h _
  · exact inv_emit h rfl

theorem resultOk_pushFrame {s : State} (h : Inv s) : ResultOk (pushFrame s) := by
  simp only [pushFrame]
  split_ifs
  · exact Cause.noConfusion
  · exact resultOk_setRes (inv_assemble h _) _

theorem inv_clearAssembler {s : State} (h : Inv s) : Inv { s with sfaN := 0, sfaPrn := 0, sfaVendor := 0 } :=
  inv_of_core h { coreInv_of_inv h with dataParts := Nat.zero_le 5 } ⟨rfl, rfl, rfl⟩

/-! ### Commands, CSR writes and steps -/

theorem inv_exec {i : Instr} {s t : State} (h : Inv s) (ht : exec i s = .next t) : Inv t := by
  cases i with
  | nop => exact Host.Outcome.next.inj ht ▸ h
  | srst => exact Host.Outcome.next.inj ht ▸ inv_softReset h
  | bcRdu n => exact inv_finish (.bcRdu n) h (resultOk_readUnsigned h n) ht
  | bcRds n => exact inv_finish (.bcRds n) h (resultOk_readSigned h n) ht
  | bcPeek n => exact inv_finish (.bcPeek n) h (resultOk_peekUnsigned h n) ht
  | bcAdv m => exact inv_finish (.bcAdv m) h (resultOk_skipBits h m) ht
  | bcRem => exact inv_finish .bcRem h (resultOk_setRes h _) ht
  | bwWr n => exact inv_finish (.bwWr n) h (resultOk_writeField h n) ht
  | bwAlign => exact inv_finish .bwAlign h (resultOk_sinkWrite h _ _) ht
  | crcInit => exact inv_finish .crcInit h (resultOk_withCrc h _) ht
  | crcByte b => exact inv_finish (.crcByte b) h (resultOk_withCrc h _) ht
  | crcMem => exact inv_finish .crcMem h (resultOk_foldDmem h) ht
  | crcChk => exact inv_finish .crcChk h (resultOk_checkTrailer h) ht
  | rtcmEnc => exact inv_finish .rtcmEnc h (resultOk_encodeRtcm h) ht
  | gfMul => exact inv_finish .gfMul h (resultOk_setRes h _) ht
  | gfInv => exact inv_finish .gfInv h (resultOk_invert h) ht
  | hasPage => exact inv_finish .hasPage h (resultOk_pageCommand h (hasOperand_pid_le _)) ht
  | hasClr => exact inv_finish .hasClr h (resultOk_setRes (inv_clearSlots h) 0) ht
  | dmxByte b => exact inv_finish (.dmxByte b) h (resultOk_pushAll h [b]) ht
  | dmxFeed => exact inv_finish .dmxFeed h (resultOk_feed h) ht
  | dmxEos => exact inv_finish .dmxEos h (resultOk_endOfStream h) ht
  | recPop => exact inv_finish .recPop h (resultOk_popRecord h) ht
  | sfaPush => exact inv_finish .sfaPush h (resultOk_pushFrame h) ht
  | sfaClr => exact inv_finish .sfaClr h (resultOk_setRes (inv_clearAssembler h) 0) ht

theorem inv_runCommand {w : Word} {s t : State} (h : Inv s) (ht : runCommand w s = .next t) : Inv t := by
  have hb := inv_beginCommand h
  unfold runCommand at ht
  split at ht
  · exact inv_exec hb ht
  · rename_i e _
    have hcause : decodeCause e ≠ .none := by cases e <;> exact Cause.noConfusion
    exact Host.Outcome.next.inj ht ▸
      inv_of_core hb (core_raiseCmdError (coreInv_of_inv hb) hcause w) ⟨rfl, rfl, rfl⟩

theorem inv_writeStatus {s : State} (h : Inv s) (v : Word) : Inv (writeStatus v s) := by
  have hack : CoreInv (if v.getLsbD 0 then acknowledgeError s else s) ∧
      SameInput s (if v.getLsbD 0 then acknowledgeError s else s) := by
    split_ifs
    · exact ⟨{ coreInv_of_inv h with latch := ⟨fun _ => ⟨rfl, rfl⟩, fun he => absurd he (by simp)⟩ }, rfl, rfl, rfl⟩
    · exact ⟨coreInv_of_inv h, rfl, rfl, rfl⟩
  exact inv_of_core h { hack.1 with } hack.2

theorem inv_writeDmxCfg {s : State} (h : Inv s) (v : Word) : Inv (writeDmxCfg v s) := by
  simp only [writeDmxCfg]
  split_ifs with hc
  · obtain ⟨hk, he⟩ := hc
    have htable := (coreInv_of_inv h).table
    exact inv_of_parts
      { coreInv_of_inv h with table := { htable with kind := by simpa [hk, he] using htable.kind } }
      (by simpa [hk] using pendingOk_of_inv h)
  · exact inv_of_parts { coreInv_of_inv h with table := tableOk_nil _ _ } (pendingOk_nil _ _)

/-- The clamp of R32, R33, R35 and R36: a position is lowered to its bound. -/
theorem clamped_le (pos bound : Word) : (if pos ≤ bound then pos else bound).toNat ≤ bound.toNat := by
  split_ifs with h
  · exact BitVec.le_def.1 h
  · exact le_rfl

theorem inv_csrStore {s : State} (h : Inv s) (i : BitVec 6) (v : Word) : Inv (csrStore i v s) := by
  have hc := coreInv_of_inv h
  unfold csrStore
  split
  case h_1 => exact inv_writeStatus h v
  -- BC_LEN, BC_POS, BW_CAP and BW_POS keep their position clamped; DMX_CFG and MEM_DATA write more than a register.
  case h_7 => exact inv_of_core h { hc with cursor := clamped_le s.bcPos v } ⟨rfl, rfl, rfl⟩
  case h_8 => exact inv_of_core h { hc with cursor := clamped_le v s.bcLen } ⟨rfl, rfl, rfl⟩
  case h_10 => exact inv_of_core h { hc with sink := clamped_le s.bwPos v } ⟨rfl, rfl, rfl⟩
  case h_11 => exact inv_of_core h { hc with sink := clamped_le v s.bwCap } ⟨rfl, rfl, rfl⟩
  case h_13 => exact inv_writeDmxCfg h v
  case h_23 => exact inv_of_core h { hc with memWf := writeByte_wf h.memWf _ _ } ⟨rfl, rfl, rfl⟩
  -- No other index holds anything that the invariant speaks of.
  all_goals exact inv_of_core h { hc with } ⟨rfl, rfl, rfl⟩

theorem inv_readEffect {s : State} (h : Inv s) (i : BitVec 6) : Inv (readEffect i s) := by
  unfold readEffect
  split_ifs
  · exact inv_of_core h { coreInv_of_inv h with } ⟨rfl, rfl, rfl⟩
  · exact h

theorem inv_performAccess {a : BusAccess} {s t : State} (h : Inv s) (ht : performAccess a s = .next t) : Inv t := by
  cases a with
  | csrRead i =>
    have hr := inv_readEffect h i
    exact Host.Outcome.next.inj ht ▸ inv_of_core hr { coreInv_of_inv hr with } ⟨rfl, rfl, rfl⟩
  | csrWrite i v =>
    simp only [performAccess] at ht
    split at ht
    · exact inv_runCommand h ht
    · exact Host.Outcome.next.inj ht ▸ inv_csrStore h i v
  | reset => exact Host.Outcome.next.inj ht ▸ inv_powerOnReset s

/-- Settles O60: every operation keeps the invariant's parts, and a scan leaves only what may become a frame. -/
theorem stepKeepsInvariant : Obligations.StepKeepsInvariant := by
  intro s t h ht
  cases hb : s.bus with
  | nil =>
    simp only [step, nextAccess, hb] at ht
    exact Host.Outcome.next.inj ht ▸ h
  | cons a rest =>
    simp only [step, nextAccess, hb] at ht
    have htaken : Inv { s with bus := rest } := inv_of_core h { coreInv_of_inv h with } ⟨rfl, rfl, rfl⟩
    exact inv_performAccess htaken ht

end Sys2Proof.Proofs.Invariant
end

section
/-! PROOFS. Which registers no command writes (O14): the host's registers as one value, and what each operation
leaves of it. -/

namespace Sys2Proof.Proofs.HostRegisters

open Sys2Proof Sys2Proof.Machine Sys2Proof.Laws

/-- The registers that only the host and a reset write (R27, R29, R31, R34, R38, R42, R44, R47, R294), the model's own
fields that no command writes, and FLAGS (R28). -/
structure HostRegs where
  args : Word × Word × Word
  ctx : BitVec 16 × Word
  memAddr : BitVec 13
  irqEn : BitVec 7
  dmxCfg : DmxCfg
  view : Word × Word
  sink : Word × Word
  sfaBase : Word
  hasDst : Word
  params : Config.Params
  bus : List BusAccess
  busOut : List Word
  inv : Bool
  eq : Bool

/-- The host's registers of a state. -/
def hostRegs (s : State) : HostRegs where
  args := (s.arg0, s.arg1, s.arg2)
  ctx := (s.ctxWeek, s.ctxTow)
  memAddr := s.memAddr
  irqEn := s.irqEn
  dmxCfg := s.dmxCfg
  view := (s.bcBase, s.bcLen)
  sink := (s.bwBase, s.bwCap)
  sfaBase := s.sfaBase
  hasDst := s.hasDst
  params := s.params
  bus := s.bus
  busOut := s.busOut
  inv := s.inv
  eq := s.eq

/-! ### Operations -/

@[simp] theorem hostRegs_setRes (v : Nat) (s : State) : hostRegs (setRes v s) = hostRegs s := rfl

@[simp] theorem hostRegs_raiseCmdError (c : Cause) (w : Word) (s : State) :
    hostRegs (raiseCmdError c w s) = hostRegs s := rfl

@[simp] theorem hostRegs_setSlot (mid : Nat) (g : Option HasGroup) (s : State) :
    hostRegs (setSlot mid g s) = hostRegs s := rfl

@[simp] theorem hostRegs_emit (r : Record) (s : State) : hostRegs (emit r s) = hostRegs s := by
  simp [hostRegs]

/-! ### The demultiplexer -/

@[simp] theorem hostRegs_bssClose (s : State) : hostRegs (bssClose s) = hostRegs s := by
  rcases bssClose_cases s with ⟨-, hs⟩ | ⟨e, -, -, hs⟩ <;> rw [hs]
  exact hostRegs_emit e s

@[simp] theorem hostRegs_bssInsert (r : Record) (s : State) : hostRegs (bssInsert r s) = hostRegs s := by
  unfold bssInsert
  split_ifs <;> rfl

@[simp] theorem hostRegs_bssOffer (r : Record) (s : State) : hostRegs (bssOffer r s) = hostRegs s := by
  have hclose : hostRegs (Invariant.closeOtherTick r s) = hostRegs s := by
    unfold Invariant.closeOtherTick
    split_ifs
    · exact hostRegs_bssClose s
    · rfl
  rw [Invariant.bssOffer_eq, hostRegs_bssInsert]
  split_ifs <;> exact hclose

@[simp] theorem hostRegs_deliver (r : Record) (s : State) : hostRegs (deliver r s) = hostRegs s := by
  simp only [deliver]
  split_ifs
  · exact hostRegs_emit r { s with cntErr := s.cntErr + 1 }
  · rfl
  · exact hostRegs_bssOffer r { s with cntOk := s.cntOk + 1 }
  · exact hostRegs_emit r { s with cntOk := s.cntOk + 1 }

theorem hostRegs_rejectFrame (code : RecCode) (bit : Nat) (rest : List Byte) (s : State) :
    hostRegs (rejectFrame code bit rest s) = hostRegs s :=
  hostRegs_emit (errorRecord s code bit) s

@[simp] theorem hostRegs_scan (fuel : Nat) (s : State) : hostRegs (scan fuel s) = hostRegs s := by
  refine scan_keeps (P := fun t => hostRegs t = hostRegs s) ?_ ?_ ?_ fuel rfl
  · exact fun _ _ _ _ h => h
  · exact fun t _ rest code bit _ h => (hostRegs_rejectFrame code bit rest t).trans h
  · exact fun t b rest n f _ _ h =>
      (hostRegs_deliver (frameRecord t f) { t with pending := (b :: rest).drop n }).trans h

theorem hostRegs_push (s : State) (b : Byte) : hostRegs (push s b) = hostRegs s :=
  hostRegs_scan _ { s with pending := s.pending ++ [b] }

theorem hostRegs_foldl_push (bs : List Byte) (s : State) : hostRegs (bs.foldl push s) = hostRegs s := by
  induction bs generalizing s with
  | nil => rfl
  | cons b bs ih => exact (ih (push s b)).trans (hostRegs_push s b)

theorem hostRegs_pushAll (bs : List Byte) (s : State) : hostRegs (pushAll bs s) = hostRegs s :=
  hostRegs_foldl_push bs { s with emitted := 0 }

theorem hostRegs_endOfStream (s : State) : hostRegs (endOfStream s) = hostRegs s :=
  hostRegs_bssClose { s with
    emitted := 0, cntSkip := s.cntSkip + BitVec.ofNat 32 s.pending.length, pending := [] }

/-! ### HAS pages and the subframe assembler -/

theorem hostRegs_openGroup (op : HasOperand) (s : State) : hostRegs (openGroup op s).1 = hostRegs s := by
  rcases openGroup_cases op s with ⟨-, ho⟩ | ⟨g, -, -, ho⟩ | ⟨g, -, -, ho⟩ <;> rw [ho]
  exact hostRegs_emit _ s

theorem hostRegs_completeGroup (op : HasOperand) (g : HasGroup) (s : State) :
    hostRegs (completeGroup op g s) = hostRegs s := by
  unfold completeGroup
  split
  · exact hostRegs_emit _ { s with mem := s.mem.writeBytes s.hasDst.toNat _ }
  · exact hostRegs_emit _ s

theorem hostRegs_offerPage (op : HasOperand) (y : List Byte) (s : State) :
    hostRegs (offerPage op y s) = hostRegs s := by
  have hopen := hostRegs_openGroup op s
  simp only [offerPage]
  split_ifs
  · rw [hostRegs_setRes, hostRegs_setSlot, hostRegs_completeGroup, hopen]
  · rw [hostRegs_setRes, hostRegs_setSlot, hopen]

theorem hostRegs_rejectPage (op : HasOperand) (code : RecCode) (msgid : Nat) (s : State) :
    hostRegs (rejectPage op code msgid s) = hostRegs s := hostRegs_emit _ s

theorem hostRegs_startSubframe (f : List Byte) (l6 : L6Header) (s : State) :
    hostRegs (startSubframe f l6 s) = hostRegs s := by
  unfold startSubframe
  split_ifs
  · exact hostRegs_emit _ s
  · rfl

theorem hostRegs_appendDataPart (f : List Byte) (l6 : L6Header) (s : State) :
    hostRegs (appendDataPart f l6 s) = hostRegs s := by
  simp only [appendDataPart]
  split_ifs
  · exact hostRegs_emit _ { s with mem := _, sfaN := s.sfaN + 1 }
  · rfl

theorem hostRegs_abortSubframe (l6 : L6Header) (s : State) : hostRegs (abortSubframe l6 s) = hostRegs s :=
  hostRegs_emit _ s

theorem hostRegs_assemble (f : List Byte) (s : State) : hostRegs (assemble f s) = hostRegs s := by
  simp only [assemble]
  split_ifs
  · exact hostRegs_emit _ s
  · exact hostRegs_startSubframe f _ s
  · exact hostRegs_appendDataPart f _ s
  · exact hostRegs_abortSubframe _ s
  · exact hostRegs_emit _ s

/-! ### The results of the commands -/

/-- Every state a command's pseudocode can reach satisfies `P`. -/
def OkIn (P : State → Prop) : Except Cause State → Prop
  | .ok t => P t
  | .error _ => True

/-- A command's pseudocode keeps the host's registers. -/
abbrev Keeps (s : State) : Except Cause State → Prop := OkIn fun t => hostRegs t = hostRegs s

/-- A command error keeps the host's registers too (R251), so only the state reached matters. -/
theorem okIn_finish (i : Instr) {s t : State} {r : Except Cause State} {P : State → Prop} (hr : OkIn P r)
    (ht : finish i s r = .next t) : P t ∨ hostRegs t = hostRegs s := by
  rcases finish_cases ht with rfl | ⟨c, rfl, rfl⟩
  · exact .inl hr
  · exact .inr (hostRegs_raiseCmdError c _ s)

theorem keeps_finish (i : Instr) {s t : State} {r : Except Cause State} (hr : Keeps s r)
    (ht : finish i s r = .next t) : hostRegs t = hostRegs s := (okIn_finish i hr ht).elim id id

theorem keeps_next {s t u : State} (ht : Host.Outcome.next u = (.next t : Host.Outcome State Fault Refusal))
    (hu : hostRegs u = hostRegs s) : hostRegs t = hostRegs s := Host.Outcome.next.inj ht ▸ hu

theorem keeps_readUnsigned (n : Nat) (s : State) : Keeps s (readUnsigned n s) := by
  unfold readUnsigned
  split
  · trivial
  · cases viewRead n s with
    | error c => trivial
    | ok v => rfl

theorem keeps_peekUnsigned (n : Nat) (s : State) : Keeps s (peekUnsigned n s) := by
  unfold peekUnsigned
  split
  · trivial
  · cases viewRead n s with
    | error c => trivial
    | ok v => rfl

/-- BC.RDS writes FLAGS.INV and no other host register (R104). -/
theorem okIn_readSigned (n : Nat) (s : State) :
    OkIn (fun t => hostRegs t = { hostRegs s with inv := t.inv }) (readSigned n s) := by
  unfold readSigned
  split
  · trivial
  · cases viewRead n s with
    | error c => trivial
    | ok u => rfl

theorem keeps_skipBits (m : Nat) (s : State) : Keeps s (skipBits m s) := by
  unfold skipBits
  split
  · trivial
  · rfl

theorem keeps_sinkWrite (n : Nat) (bit : Nat → Bool) (s : State) : Keeps s (sinkWrite n bit s) := by
  rcases sinkWrite_cases n bit s with ⟨-, hw⟩ | ⟨-, -, -, hw⟩ | ⟨-, -, hw⟩ <;> rw [hw]
  · trivial
  · trivial
  · rfl

theorem keeps_writeField (n : Nat) (s : State) : Keeps s (writeField n s) := by
  unfold writeField
  split
  · trivial
  · exact keeps_sinkWrite n _ s

theorem keeps_foldDmem (s : State) : Keeps s (foldDmem s) := by
  unfold foldDmem
  split
  · rfl
  · trivial

/-- CRC.CHK writes FLAGS.EQ and no other host register (R124). -/
theorem okIn_checkTrailer (s : State) :
    OkIn (fun t => hostRegs t = { hostRegs s with eq := t.eq }) (checkTrailer s) := by
  unfold checkTrailer
  split
  · rfl
  · trivial

theorem keeps_encodeRtcm (s : State) : Keeps s (encodeRtcm s) := by
  simp only [encodeRtcm]
  split_ifs
  · trivial
  · trivial
  · rfl

theorem keeps_invert (s : State) : Keeps s (invert s) := by
  unfold invert
  split
  · trivial
  · rfl

theorem keeps_feed (s : State) : Keeps s (feed s) := by
  unfold feed
  split
  · exact hostRegs_pushAll _ s
  · trivial

theorem keeps_popRecord (s : State) : Keeps s (popRecord s) := by
  unfold popRecord
  split
  · trivial
  split
  · rfl
  · trivial

theorem keeps_pageCommand (op : HasOperand) (s : State) : Keeps s (pageCommand op s) := by
  unfold pageCommand
  split_ifs
  · trivial
  · trivial
  · exact hostRegs_rejectPage op .badPid op.mid s
  · exact hostRegs_rejectPage op .badMid 0 s
  · exact hostRegs_rejectPage op .badMs op.mid s
  · exact hostRegs_offerPage op _ s

theorem keeps_pushFrame (s : State) : Keeps s (pushFrame s) := by
  simp only [pushFrame]
  split_ifs
  · trivial
  · exact (hostRegs_setRes _ _).trans (hostRegs_assemble _ s)

/-! ### The commands -/

/-- What a command leaves of the host's registers: FLAGS.INV is BC.RDS's, FLAGS.EQ is CRC.CHK's, the rest is kept. -/
structure Kept (i : Instr) (s t : State) : Prop where
  regs : hostRegs t = { hostRegs s with inv := t.inv, eq := t.eq }
  inv : (∀ n, i ≠ .bcRds n) → t.inv = s.inv
  eq : i ≠ .crcChk → t.eq = s.eq

theorem kept_of_eq (i : Instr) {s t : State} (h : hostRegs t = hostRegs s) : Kept i s t := by
  have hinv : t.inv = s.inv := congrArg HostRegs.inv h
  have heq : t.eq = s.eq := congrArg HostRegs.eq h
  exact ⟨by rw [hinv, heq]; exact h, fun _ => hinv, fun _ => heq⟩

theorem kept_bcRds {n : Nat} {s t : State} (h : exec (.bcRds n) s = .next t) : Kept (.bcRds n) s t := by
  rcases okIn_finish (.bcRds n) (okIn_readSigned n s) h with hr | hr
  · have heq : t.eq = s.eq := congrArg HostRegs.eq hr
    exact ⟨by rw [heq]; exact hr, fun hn => absurd rfl (hn n), fun _ => heq⟩
  · exact kept_of_eq _ hr

theorem kept_crcChk {s t : State} (h : exec .crcChk s = .next t) : Kept .crcChk s t := by
  rcases okIn_finish .crcChk (okIn_checkTrailer s) h with hr | hr
  · have hinv : t.inv = s.inv := congrArg HostRegs.inv hr
    exact ⟨by rw [hinv]; exact hr, fun _ => hinv, fun hn => absurd rfl hn⟩
  · exact kept_of_eq _ hr

theorem hostRegs_exec {i : Instr} {s t : State} (h : exec i s = .next t) (hs : i ≠ .srst)
    (hr : ∀ n, i ≠ .bcRds n) (hc : i ≠ .crcChk) : hostRegs t = hostRegs s := by
  cases i with
  | nop => exact keeps_next h rfl
  | srst => exact absurd rfl hs
  | bcRdu n => exact keeps_finish (.bcRdu n) (keeps_readUnsigned n s) h
  | bcRds n => exact absurd rfl (hr n)
  | bcPeek n => exact keeps_finish (.bcPeek n) (keeps_peekUnsigned n s) h
  | bcAdv m => exact keeps_finish (.bcAdv m) (keeps_skipBits m s) h
  | bcRem => exact keeps_next h rfl
  | bwWr n => exact keeps_finish (.bwWr n) (keeps_writeField n s) h
  | bwAlign => exact keeps_finish .bwAlign (keeps_sinkWrite _ _ s) h
  | crcInit => exact keeps_next h rfl
  | crcByte b => exact keeps_next h rfl
  | crcMem => exact keeps_finish .crcMem (keeps_foldDmem s) h
  | crcChk => exact absurd rfl hc
  | rtcmEnc => exact keeps_finish .rtcmEnc (keeps_encodeRtcm s) h
  | gfMul => exact keeps_next h rfl
  | gfInv => exact keeps_finish .gfInv (keeps_invert s) h
  | hasPage => exact keeps_finish .hasPage (keeps_pageCommand _ s) h
  | hasClr => exact keeps_next h rfl
  | dmxByte b => exact keeps_next h (hostRegs_pushAll [b] s)
  | dmxFeed => exact keeps_finish .dmxFeed (keeps_feed s) h
  | dmxEos => exact keeps_next h (hostRegs_endOfStream s)
  | recPop => exact keeps_finish .recPop (keeps_popRecord s) h
  | sfaPush => exact keeps_finish .sfaPush (keeps_pushFrame s) h
  | sfaClr => exact keeps_next h rfl

theorem kept_exec {i : Instr} {s t : State} (h : exec i s = .next t) (hs : i ≠ .srst) : Kept i s t := by
  by_cases hr : ∃ n, i = .bcRds n
  · obtain ⟨n, rfl⟩ := hr
    exact kept_bcRds h
  · by_cases hc : i = .crcChk
    · subst hc
      exact kept_crcChk h
    · exact kept_of_eq i (hostRegs_exec h hs (fun n hn => hr ⟨n, hn⟩) hc)

/-- Settles O14, field by field from `kept_exec`. -/
theorem commandsKeepHostRegisters : Obligations.CommandsKeepHostRegisters := by
  intro i s t h hi
  obtain ⟨hregs, hinv, heq⟩ := kept_exec h hi
  simp only [hostRegs, HostRegs.mk.injEq, Prod.mk.injEq] at hregs
  obtain ⟨hargs, hctx, hmem, hirq, hcfg, hview, hsink, hsfa, hdst, hpar, hbus, hout, -, -⟩ := hregs
  exact ⟨hargs, hctx, hmem, hirq, hcfg, hview, hsink, hsfa, hdst, hpar, hbus, hout, hinv, heq⟩

end Sys2Proof.Proofs.HostRegisters
end

section
/-! PROOFS. The CSR space (O5, O12, O15, O17, O18): what each index reads as and what a write stores. -/

namespace Sys2Proof.Proofs.Csr

open Sys2Proof Sys2Proof.Machine Sys2Proof.Safety Sys2Proof.Laws Sys2Proof.Proofs.Words

/-! ### Writes -/

/-- Settles O5: the access is taken from the list and its word is decoded. -/
theorem stepRunsDecodedCommand : Obligations.StepRunsDecodedCommand := by
  intro s w i rest hbus hdec
  refine ⟨?_, rfl⟩
  have hrun : runCommand w { s with bus := rest } = exec i (beginCommand { s with bus := rest }) := by
    simp only [runCommand, hdec]
  simp only [step, nextAccess, hbus, performAccess, if_pos]
  exact hrun

/-- Settles O12: only the write to bit 0 acknowledges the latched error. -/
theorem statusBitsClearByWritingOne : Obligations.StatusBitsClearByWritingOne := by
  intro v s
  show writeStatus v s = _
  simp only [writeStatus]
  cases v.getLsbD 0 with
  | false => simp
  | true => simp [acknowledgeError]

/-- The clamp of R32, R33, R35 and R36 in numbers. -/
theorem clamp_eq_min (pos bound : Word) :
    (if pos ≤ bound then pos else bound) = BitVec.ofNat 32 (min pos.toNat bound.toNat) := by
  split_ifs with h
  · rw [min_eq_left (BitVec.le_def.1 h), BitVec.ofNat_toNat, BitVec.setWidth_eq]
  · rw [min_eq_right (le_of_not_ge fun hle => h (BitVec.le_def.2 hle)), BitVec.ofNat_toNat, BitVec.setWidth_eq]

/-- The low field of a word, as a register of that width stores it. -/
theorem lowBits_eq (n : Nat) (v : Word) : v.extractLsb' 0 n = BitVec.ofNat n v.toNat :=
  BitVec.eq_of_toNat_eq (by simp)

/-- Settles O15: the plain registers store by definition, the positions by `clamp_eq_min`, the narrow registers by
`lowBits_eq`. -/
theorem registerWritesStoreAndClamp : Obligations.RegisterWritesStoreAndClamp := by
  intro v s
  refine ⟨⟨?_, ?_, ?_, ?_⟩, ⟨rfl, rfl, rfl, rfl, rfl, rfl, rfl, rfl⟩, ⟨rfl, rfl, rfl, rfl⟩, ?_, ?_, ?_⟩
  · rw [← clamp_eq_min]; rfl
  · rw [← clamp_eq_min]; rfl
  · rw [← clamp_eq_min]; rfl
  · rw [← clamp_eq_min]; rfl
  · rw [← lowBits_eq]; rfl
  · rw [← lowBits_eq]; rfl
  · rw [← lowBits_eq]; rfl

/-! ### The memory port -/

/-- A byte stored at an address of DMEM, as the statements see it. -/
theorem storedAt_writeByte {m : Memory} (h : m.wf = true) {a : Nat} (ha : a < Config.dmemSize) (v : Byte) :
    StoredAt m (m.writeByte a v) a [v] := by
  intro b
  rw [readByte_writeByte h]
  by_cases hb : b = a
  · subst hb
    simp [ha]
  · rw [if_neg (by simp [hb]), if_neg (by simp; omega)]

theorem memAddr_succ (a : BitVec 13) : a + 1 = BitVec.ofNat 13 ((a.toNat + 1) % 8192) := by
  bv_omega

/-- Settles O17: MEM_ADDR is 13 bits wide, so the byte is always one of DMEM's. -/
theorem memoryPortWritesOneByte : Obligations.MemoryPortWritesOneByte := by
  intro v s hwf
  have hlow : ∀ n, BitVec.ofNat n (v.toNat % 2 ^ n) = v.extractLsb' 0 n := fun n => by
    rw [lowBits_eq]
    exact BitVec.eq_of_toNat_eq (by simp)
  refine ⟨?_, ⟨s.mem.writeByte s.memAddr.toNat (v.extractLsb' 0 8), ?_, ?_⟩, ?_⟩
  · rw [show (8192 : Nat) = 2 ^ 13 from rfl, hlow]; rfl
  · rw [← memAddr_succ]; rfl
  · rw [show (256 : Nat) = 2 ^ 8 from rfl, hlow]
    exact storedAt_writeByte hwf s.memAddr.isLt _
  · rw [BitVec.ofNat_toNat]; rfl

/-! ### Reads -/

theorem statusWord_toNat (s : State) : (statusWord s).toNat = statusNumber s := by
  have hq : recqNe s = decide (0 < s.queue.length) := by cases h : s.queue <;> simp [recqNe, h]
  simp only [statusWord, statusNumber, toNat_append_eq_add, BitVec.ofNat_eq_ofNat, BitVec.toNat_ofNat,
    BitVec.toNat_ofBool, hq]
  omega

theorem flagsWord_toNat (s : State) : (flagsWord s).toNat = s.inv.toNat + 2 * s.eq.toNat := by
  simp only [flagsWord, toNat_append_eq_add, BitVec.ofNat_eq_ofNat, BitVec.toNat_ofNat, BitVec.toNat_ofBool]
  omega

theorem causeBits_toNat (c : Cause) : c.bits.toNat = causeNumber c := by cases c <;> rfl

theorem kindBits_toNat (k : Kind) : k.bits.toNat = kindNumber k := by cases k <;> rfl

theorem dmxCfgWord_toNat (c : DmxCfg) :
    c.toWord.toNat = kindNumber c.kind + 16 * c.bssEn.toNat + 32 * c.pinEn.toNat + 65536 * c.pinPrn.toNat := by
  simp only [DmxCfg.toWord, toNat_append_eq_add, BitVec.ofNat_eq_ofNat, BitVec.toNat_ofNat, BitVec.toNat_ofBool,
    kindBits_toNat]
  omega

theorem dmxStat_toNat {s : State} (hp : s.pending.length < 4096) (ht : s.bssTable.length < 64) :
    (dmxStat s).toNat = s.pending.length + 65536 * s.bssTable.length := by
  simp only [dmxStat, toNat_append_eq_add, BitVec.ofNat_eq_ofNat, BitVec.toNat_ofNat]
  omega

theorem sfaStat_toNat {s : State} (hn : s.sfaN ≤ 5) :
    (sfaStat s).toNat = s.sfaN + 256 * s.sfaPrn.toNat + 65536 * s.sfaVendor.toNat := by
  simp only [sfaStat, toNat_append_eq_add, BitVec.ofNat_eq_ofNat, BitVec.toNat_ofNat]
  omega

theorem sfaBits_toNat {n : Nat} (hn : n ≤ 5) : (BitVec.ofNat 32 (Config.dataPartBits * n)).toNat = 1695 * n := by
  rw [BitVec.toNat_ofNat]
  exact Nat.mod_eq_of_lt (show 1695 * n < 2 ^ 32 by omega)

theorem resHigh_toNat (r : DWord) : (r.extractLsb' 32 32).toNat = r.toNat / 2 ^ 32 := by
  rw [BitVec.extractLsb'_toNat, Nat.shiftRight_eq_div_pow]
  omega

/-- The indices whose value is made of fields, counts or a register narrower than 32 bits. -/
def madeIndices : List Nat :=
  [0x02, 0x03, 0x05, 0x06, 0x0C, 0x0D, 0x18, 0x20, 0x21, 0x26, 0x2A, 0x2D, 0x2E, 0x31, 0x32, 0x38, 0x3C, 0x3D]

theorem csrValue_toNat_of_made {i : Nat} {s : State} (hi : i ∈ madeIndices) (hp : s.pending.length < 4096)
    (ht : s.bssTable.length < 64) (hq : s.queue.length ≤ 8) (hn : s.sfaN ≤ 5) :
    (csrValue (BitVec.ofNat 6 i) s).toNat = csrNumber s i := by
  simp only [madeIndices, List.mem_cons, List.not_mem_nil, or_false] at hi
  rcases hi with rfl | rfl | rfl | rfl | rfl | rfl | rfl | rfl | rfl | rfl | rfl | rfl | rfl | rfl | rfl | rfl |
    rfl | rfl
  · exact statusWord_toNat s
  · exact (BitVec.toNat_setWidth_of_le (by decide)).trans (causeBits_toNat s.errCause)
  · exact BitVec.toNat_setWidth_of_le (by decide) -- IRQEN
  · exact flagsWord_toNat s
  · exact BitVec.extractLsb'_toNat 0 32 s.res
  · exact resHigh_toNat s.res
  · exact BitVec.toNat_setWidth_of_le (by decide) -- CRC
  · exact dmxCfgWord_toNat s.dmxCfg
  · exact dmxStat_toNat hp ht
  · exact BitVec.toNat_setWidth_of_le (by decide) -- CTX_WEEK
  · exact BitVec.toNat_setWidth_of_le (by decide) -- REC_WEEK
  · exact BitVec.toNat_setWidth_of_le (by decide) -- REC_MSGID
  · exact BitVec.toNat_setWidth_of_le (by decide) -- REC_LEN
  · exact sfaStat_toNat hn
  · exact sfaBits_toNat hn
  · exact (BitVec.toNat_ofNat ..).trans (Nat.mod_eq_of_lt (by omega))
  · exact BitVec.toNat_setWidth_of_le (by decide) -- MEM_ADDR
  · exact BitVec.toNat_setWidth_of_le (by decide) -- MEM_DATA

/-- Every other index but HAS_LIVE is a 32-bit register, the ID or reserved, and reads as it stands. -/
theorem csrValue_toNat_of_plain {i : Nat} {s : State} (hi : i < 64) (hlive : i ≠ 0x35) (hm : i ∉ madeIndices) :
    (csrValue (BitVec.ofNat 6 i) s).toNat = csrNumber s i := by
  interval_cases i <;> simp [madeIndices] at hm hlive
  all_goals rfl

theorem csrValue_toNat {i : Nat} {s : State} (hi : i < 64) (hlive : i ≠ 0x35) (hp : s.pending.length < 4096)
    (ht : s.bssTable.length < 64) (hq : s.queue.length ≤ 8) (hn : s.sfaN ≤ 5) :
    (csrValue (BitVec.ofNat 6 i) s).toNat = csrNumber s i := by
  by_cases hm : i ∈ madeIndices
  · exact csrValue_toNat_of_made hm hp ht hq hn
  · exact csrValue_toNat_of_plain hi hlive hm

/-! ### HAS_LIVE -/

/-- Bit `k` of HAS_LIVE's bits from MID `m` on is set by the entry `k - m` of the slots (R48). -/
theorem getLsbD_liveBits (gs : List (Option HasGroup)) (m k : Nat) :
    (liveBits m gs).getLsbD k = true ↔ k < 32 ∧ m ≤ k ∧ ∃ g, gs[k - m]? = some (some g) := by
  induction gs generalizing m with
  | nil => simp [liveBits]
  | cons o gs ih =>
    have hbit : (if o.isSome then 1#32 <<< m else 0).getLsbD k = true ↔ k < 32 ∧ k = m ∧ o.isSome := by
      cases o with
      | none => simp
      | some g =>
        simp only [Option.isSome_some, if_true, BitVec.getLsbD_shiftLeft, BitVec.getLsbD_one, and_true,
          Bool.and_eq_true, decide_eq_true_eq, Bool.not_eq_true', decide_eq_false_iff_not]
        omega
    rw [liveBits, BitVec.getLsbD_or, Bool.or_eq_true, hbit, ih]
    rcases Nat.lt_trichotomy k m with hlt | rfl | hgt
    · have hm : ¬ m ≤ k := by omega
      have hm1 : ¬ m + 1 ≤ k := by omega
      simp [hlt.ne, hm, hm1]
    · simp [Option.isSome_iff_exists]
    · have hidx : k - m = (k - (m + 1)) + 1 := by omega
      rw [hidx, List.getElem?_cons_succ]
      simp [hgt.ne', hgt.le, Nat.succ_le_of_lt hgt]

theorem slotOf_ne_none_iff (s : State) (mid : Nat) :
    slotOf s mid ≠ none ↔ ∃ g, s.hasSlots.toList[mid - 1]? = some (some g) := by
  unfold slotOf
  rw [Vector.getElem?_toList]
  rcases s.hasSlots[mid - 1]? with _ | _ | g <;> simp

theorem hasLive_bit (mid : Nat) (s : State) :
    (csrValue 0x35 s).getLsbD mid = true ↔ 1 ≤ mid ∧ mid ≤ 31 ∧ slotOf s mid ≠ none := by
  rw [slotOf_ne_none_iff]
  refine (getLsbD_liveBits s.hasSlots.toList 1 mid).trans ?_
  rw [Nat.lt_succ_iff, and_left_comm]

/-- Settles O18. A write to a read-only or reserved index is the last case of `csrStore`. -/
theorem csrReadsShowStateAndReadOnlyKeepIt : Obligations.CsrReadsShowStateAndReadOnlyKeepIt := by
  refine ⟨fun i s hi hlive hp ht hq hn => csrValue_toNat hi hlive hp ht hq hn, hasLive_bit,
    fun i v s => ⟨?_, ?_⟩⟩
  · intro hi
    fin_cases hi <;> rfl
  · intro hi
    fin_cases hi <;> exact ⟨rfl, rfl⟩

end Sys2Proof.Proofs.Csr
end

section
/-! PROOFS. One step is one host access (O6): taking the oldest access, then what a read and a plain write do. -/

namespace Sys2Proof.Proofs.HostAccess

open Sys2Proof Sys2Proof.Machine

/-! ### The access list -/

/-- The idle step (R269): nothing acts without a host access. -/
theorem step_of_bus_nil {s : State} (hbus : s.bus = []) : step s = .next s := by
  simp only [step, nextAccess, hbus]

/-- The oldest access is taken from the list and performed (R67). -/
theorem step_of_bus_cons {s : State} {a : BusAccess} {rest : List BusAccess} (hbus : s.bus = a :: rest) :
    step s = performAccess a { s with bus := rest } := by
  simp only [step, nextAccess, hbus]

/-! ### Reads and writes -/

/-- No register shows the accesses still to come. -/
theorem csrValue_withBus (i : BitVec 6) (s : State) (rest : List BusAccess) :
    csrValue i { s with bus := rest } = csrValue i s := rfl

/-- A read's one side effect, as one update of MEM_ADDR (R51, R65). -/
theorem readEffect_eq (i : BitVec 6) (s : State) :
    readEffect i s = { s with memAddr := if i = 0x3D then s.memAddr + 1 else s.memAddr } := by
  unfold readEffect
  split_ifs <;> rfl

theorem performAccess_csrRead (i : BitVec 6) (s : State) :
    performAccess (.csrRead i) s = .next { s with
      busOut := s.busOut ++ [csrValue i s]
      memAddr := if i = 0x3D then s.memAddr + 1 else s.memAddr } := by
  rw [performAccess, readEffect_eq]

/-- Every write but one to CMD stores into its register and runs no command (R22). -/
theorem performAccess_csrWrite_of_ne {i : BitVec 6} (hi : i ≠ cmdIndex) (v : Word) (s : State) :
    performAccess (.csrWrite i v) s = .next (csrStore i v s) := if_neg hi

/-- Settles O6: the access is taken from the list, then performed as a read or a plain write. -/
theorem stepPerformsHostAccess : Obligations.StepPerformsHostAccess := by
  intro s
  refine ⟨step_of_bus_nil, fun i rest hbus => ?read, fun i v rest hbus hi => ?write⟩
  case read => rw [step_of_bus_cons hbus, performAccess_csrRead, csrValue_withBus]
  case write => rw [step_of_bus_cons hbus, performAccess_csrWrite_of_ne hi]

end Sys2Proof.Proofs.HostAccess
end

section
/-! PROOFS. The command encoding (O1, O2, O3, O4): the fields of a command word, its row of R83, and what becomes of
the words that are no command. -/

namespace Sys2Proof.Proofs.Encoding

open Sys2Proof Sys2Proof.Machine Sys2Proof.Safety Sys2Proof.Laws Sys2Proof.Proofs.Words Sys2Proof.Proofs.HostAccess

/-! ### The fields of a word, as numbers (R80, R81) -/

theorem opOf_eq (w : Word) : opOf w = w.toNat / 2 ^ 24 := by
  have hw := w.isLt
  simp only [opOf, BitVec.extractLsb'_toNat, Nat.shiftRight_eq_div_pow]
  omega

theorem imm8Of_toNat (w : Word) : (imm8Of w).toNat = w.toNat % 2 ^ 8 := by
  simp only [imm8Of, BitVec.extractLsb'_toNat, Nat.shiftRight_zero]

theorem widthOf_eq (w : Word) : widthOf w = w.toNat % 2 ^ 7 := by
  simp only [widthOf, BitVec.extractLsb'_toNat, Nat.shiftRight_zero]

theorem imm16Of_eq (w : Word) : imm16Of w = w.toNat % 2 ^ 16 := by
  simp only [imm16Of, BitVec.extractLsb'_toNat, Nat.shiftRight_zero]

/-- The width of a format's immediate field (R81). -/
def immBits : Format → Nat
  | .n => 0
  | .i8 => 8
  | .w => 7
  | .i16 => 16

/-- The reserved field stands between the immediate and the opcode. -/
theorem reserved_eq (f : Format) (w : Word) : f.reserved w = w.toNat % 2 ^ 24 / 2 ^ immBits f := by
  cases f <;>
    simp only [Format.reserved, immBits, BitVec.extractLsb'_toNat, Nat.shiftRight_eq_div_pow] <;>
    omega

/-! ### The words the encoder assembles -/

theorem wordN_toNat (op : Byte) : (wordN op).toNat = op.toNat * 2 ^ 24 := by
  simp only [wordN, toNat_append_eq_add, BitVec.ofNat_eq_ofNat, BitVec.toNat_ofNat]
  omega

theorem wordI8_toNat (op b : Byte) : (wordI8 op b).toNat = op.toNat * 2 ^ 24 + b.toNat := by
  simp only [wordI8, toNat_append_eq_add, BitVec.ofNat_eq_ofNat, BitVec.toNat_ofNat]
  omega

theorem wordW_toNat (op : Byte) (n : Nat) : (wordW op n).toNat = op.toNat * 2 ^ 24 + n % 2 ^ 7 := by
  simp only [wordW, toNat_append_eq_add, BitVec.ofNat_eq_ofNat, BitVec.toNat_ofNat]
  omega

theorem wordI16_toNat (op : Byte) (m : Nat) : (wordI16 op m).toNat = op.toNat * 2 ^ 24 + m % 2 ^ 16 := by
  simp only [wordI16, toNat_append_eq_add, BitVec.ofNat_eq_ofNat, BitVec.toNat_ofNat]
  omega

/-- The word of `op` in format `f` with the immediate that `w` carries. -/
def reassemble (f : Format) (op : Byte) (w : Word) : Word :=
  match f with
  | .n => wordN op
  | .i8 => wordI8 op (imm8Of w)
  | .w => wordW op (widthOf w)
  | .i16 => wordI16 op (imm16Of w)

/-- Opcode and immediate are the whole word once its reserved field is 0. -/
theorem reassemble_eq {f : Format} {w : Word} (hres : f.reserved w = 0) :
    reassemble f (BitVec.ofNat 8 (opOf w)) w = w := by
  have hw := w.isLt
  rw [reserved_eq] at hres
  apply BitVec.eq_of_toNat_eq
  cases f <;>
    simp only [reassemble, wordN_toNat, wordI8_toNat, wordW_toNat, wordI16_toNat, imm8Of_toNat, widthOf_eq, imm16Of_eq,
      BitVec.toNat_ofNat, opOf_eq, immBits] at hres ⊢ <;>
    omega

/-! ### The decoding procedure (R86) -/

theorem decode_of_no_row {w : Word} (hrow : rowOf (opOf w) w = none) : decode w = .error .illegalOpcode := by
  simp only [decode, hrow]

theorem decode_of_row {w : Word} {f : Format} {i : Instr} (hrow : rowOf (opOf w) w = some (f, i)) :
    decode w = if f.reserved w = 0 then .ok i else .error .reservedField := by
  simp only [decode, hrow]

theorem row_of_decode {w : Word} {i : Instr} (h : decode w = .ok i) :
    ∃ f, rowOf (opOf w) w = some (f, i) ∧ f.reserved w = 0 := by
  match hrow : rowOf (opOf w) w with
  | none => simp [decode_of_no_row hrow] at h
  | some (f, j) =>
    rw [decode_of_row hrow] at h
    split_ifs at h with hres
    exact ⟨f, by rw [Except.ok.inj h], hres⟩

/-! ### Decoding an assembled word, format by format -/

theorem decode_wordN {op : Byte} {i : Instr} (hrow : ∀ w, rowOf op.toNat w = some (.n, i)) :
    decode (wordN op) = .ok i := by
  have hres : Format.n.reserved (wordN op) = 0 := by
    rw [reserved_eq, wordN_toNat, immBits]
    omega
  rw [decode_of_row ((opOf_wordN op).symm ▸ hrow _), if_pos hres]

theorem decode_wordI8 {op : Byte} {c : Byte → Instr} (hrow : ∀ w, rowOf op.toNat w = some (.i8, c (imm8Of w)))
    (b : Byte) : decode (wordI8 op b) = .ok (c b) := by
  have hb := b.isLt
  have himm : imm8Of (wordI8 op b) = b := by
    apply BitVec.eq_of_toNat_eq
    rw [imm8Of_toNat, wordI8_toNat]
    omega
  have hres : Format.i8.reserved (wordI8 op b) = 0 := by
    rw [reserved_eq, wordI8_toNat, immBits]
    omega
  rw [decode_of_row ((opOf_wordI8 op b).symm ▸ hrow _), if_pos hres, himm]

theorem decode_wordW {op : Byte} {c : Nat → Instr} (hrow : ∀ w, rowOf op.toNat w = some (.w, c (widthOf w)))
    {n : Nat} (hn : n < 128) : decode (wordW op n) = .ok (c n) := by
  have himm : widthOf (wordW op n) = n := by
    rw [widthOf_eq, wordW_toNat]
    omega
  have hres : Format.w.reserved (wordW op n) = 0 := by
    rw [reserved_eq, wordW_toNat, immBits]
    omega
  rw [decode_of_row ((opOf_wordW op n).symm ▸ hrow _), if_pos hres, himm]

theorem decode_wordI16 {op : Byte} {c : Nat → Instr} (hrow : ∀ w, rowOf op.toNat w = some (.i16, c (imm16Of w)))
    {m : Nat} (hm : m < 65536) : decode (wordI16 op m) = .ok (c m) := by
  have himm : imm16Of (wordI16 op m) = m := by
    rw [imm16Of_eq, wordI16_toNat]
    omega
  have hres : Format.i16.reserved (wordI16 op m) = 0 := by
    rw [reserved_eq, wordI16_toNat, immBits]
    omega
  rw [decode_of_row ((opOf_wordI16 op m).symm ▸ hrow _), if_pos hres, himm]

/-- Settles O1: each command's word is assembled in the format that its row of R83 names. -/
theorem decodeReadsEncodedCommand : Obligations.DecodeReadsEncodedCommand := by
  intro i hwf
  cases i with
  | bcRdu n => exact decode_wordW (fun _ => rfl) (of_decide_eq_true hwf)
  | bcRds n => exact decode_wordW (fun _ => rfl) (of_decide_eq_true hwf)
  | bcPeek n => exact decode_wordW (fun _ => rfl) (of_decide_eq_true hwf)
  | bwWr n => exact decode_wordW (fun _ => rfl) (of_decide_eq_true hwf)
  | bcAdv m => exact decode_wordI16 (fun _ => rfl) (of_decide_eq_true hwf)
  | crcByte b => exact decode_wordI8 (fun _ => rfl) b
  | dmxByte b => exact decode_wordI8 (fun _ => rfl) b
  -- Every other command has no immediate.
  | _ => exact decode_wordN fun _ => rfl

/-! ### The rows of R83 -/

/-- The reserved bits of a format as R86's mask. -/
def maskOf : Format → Word
  | .n => 0x00FFFFFF
  | .i8 => 0x00FFFF00
  | .w => 0x00FFFF80
  | .i16 => 0x00FF0000

theorem and_eq_zero_of_extractLsb'_eq_zero {w mask : Word} {k n : Nat} (hw : (w.extractLsb' k n).toNat = 0)
    (hmask : ∀ j : Fin 32, mask.getLsbD j → k ≤ j ∧ j - k < n) : w &&& mask = 0 := by
  have hzero : w.extractLsb' k n = 0 := BitVec.eq_of_toNat_eq hw
  apply BitVec.eq_of_getLsbD_eq
  intro j hj
  rw [BitVec.getLsbD_and]
  cases hm : mask.getLsbD j with
  | false => simp
  | true =>
    obtain ⟨hk, hn⟩ := hmask ⟨j, hj⟩ hm
    have hbit : (w.extractLsb' k n).getLsbD (j - k) = false := by rw [hzero]; simp
    simpa [BitVec.getLsbD_extractLsb', show j - k < n from hn, show k + (j - k) = j from Nat.add_sub_cancel' hk]
      using hbit

theorem and_maskOf_eq_zero {f : Format} {w : Word} (h : f.reserved w = 0) : w &&& maskOf f = 0 := by
  cases f with
  | n => exact and_eq_zero_of_extractLsb'_eq_zero h (by decide)
  | i8 => exact and_eq_zero_of_extractLsb'_eq_zero h (by decide)
  | w => exact and_eq_zero_of_extractLsb'_eq_zero h (by decide)
  | i16 => exact and_eq_zero_of_extractLsb'_eq_zero h (by decide)

/-- What the command of a row encodes to, and that its immediate fits. -/
theorem encode_of_row {op : Nat} {w : Word} {f : Format} {i : Instr} (h : rowOf op w = some (f, i)) :
    encode i = reassemble f (BitVec.ofNat 8 op) w ∧ i.wf = true := by
  have hwidth : widthOf w < 128 := (w.extractLsb' 0 7).isLt
  have hhalf : imm16Of w < 65536 := (w.extractLsb' 0 16).isLt
  unfold rowOf at h
  split at h <;> cases h <;> exact ⟨rfl, by simp [Instr.wf, hwidth, hhalf]⟩

theorem mem_rowMasks_of_row {op : Nat} {w : Word} {f : Format} {i : Instr} (h : rowOf op w = some (f, i)) :
    (op, maskOf f) ∈ rowMasks := by
  unfold rowOf at h
  split at h <;> cases h <;> decide

theorem row_of_mem_rowMasks (w : Word) :
    ∀ row ∈ rowMasks, ∃ f i, rowOf row.1 w = some (f, i) ∧ maskOf f = row.2 := by
  simp [rowMasks, rowOf, maskOf]

/-- Settles O2: a legal word is its opcode with its immediate, which is what the encoder assembles. -/
theorem encodeWritesDecodedWord : Obligations.EncodeWritesDecodedWord := by
  intro w i hdec
  obtain ⟨f, hrow, hres⟩ := row_of_decode hdec
  obtain ⟨henc, hwf⟩ := encode_of_row hrow
  exact ⟨henc.trans (reassemble_eq hres), hwf⟩

/-! ### Words that are no command (R85) -/

theorem decode_of_unlisted {w : Word} (h : ∀ row ∈ rowMasks, row.1 ≠ opOf w) :
    decode w = .error .illegalOpcode := by
  apply decode_of_no_row
  match hrow : rowOf (opOf w) w with
  | none => rfl
  | some (_, _) => exact absurd rfl (h _ (mem_rowMasks_of_row hrow))

theorem decode_of_reserved {w : Word} {row : Nat × Word} (hmem : row ∈ rowMasks) (hop : row.1 = opOf w)
    (hset : w &&& row.2 ≠ 0) : decode w = .error .reservedField := by
  obtain ⟨f, i, hrow, hmask⟩ := row_of_mem_rowMasks w row hmem
  have hres : f.reserved w ≠ 0 := fun h => hset (hmask ▸ and_maskOf_eq_zero h)
  rw [decode_of_row (hop ▸ hrow), if_neg hres]

/-- A CMD write of a word that does not decode ends in the cause of its decode error, EMITTED 0 (R22, R85). -/
theorem step_of_decode_error {s : State} {w : Word} {rest : List BusAccess} {e : DecodeError}
    (hbus : s.bus = .csrWrite cmdIndex w :: rest) (hdec : decode w = .error e) :
    step s = .next (raiseCmdError (decodeCause e) w { s with bus := rest, emitted := 0 }) := by
  rw [step_of_bus_cons hbus, performAccess, if_pos rfl, runCommand, hdec]
  rfl

/-- Settles O3: R83's table decides the decode error, which the CMD write then raises. -/
theorem nonCommandWordsAreRejected : Obligations.NonCommandWordsAreRejected := by
  intro s w rest hbus
  refine ⟨fun hunlisted => ?illegal, fun row hmem hop hset => ?reserved⟩
  case illegal => exact step_of_decode_error hbus (decode_of_unlisted hunlisted)
  case reserved => exact step_of_decode_error hbus (decode_of_reserved hmem hop hset)

/-! ### The example words (R91) -/

theorem map_decode_of_encode {ws : List Word} {is : List Instr} (hwf : ∀ i ∈ is, i.wf = true)
    (hws : ws = is.map encode) : ws.map decode = is.map .ok := by
  rw [hws, List.map_map]
  exact List.map_congr_left fun i hi => decodeReadsEncodedCommand i (hwf i hi)

/-- Settles O4: the listed words are the encodings of their commands, so O1 decodes them; the three words given as
illegal are evaluated. -/
theorem exampleWordsDecode : Obligations.ExampleWordsDecode :=
  ⟨map_decode_of_encode (by decide) (by decide), map_decode_of_encode (by decide) (by decide), by decide⟩

end Sys2Proof.Proofs.Encoding
end

section
/-! PROOFS. The encoding clause of the statements about one command (R85, R86, R88), once per format. -/

namespace Sys2Proof.Proofs.Encoding

open Sys2Proof Sys2Proof.Machine Sys2Proof.Safety

/-- O1 and O2 make the decoder the encoder's inverse, and the row's mask names the reserved bits. -/
theorem encodedAs_of_encode {op imm : Nat} {mask : Word} {i : Instr} (hrow : (op, mask) ∈ rowMasks)
    (hwf : i.wf = true) (henc : (encode i).toNat = op * 2 ^ 24 + imm) : EncodedAs op mask imm i := by
  refine ⟨fun w => ⟨fun hdec => ?_, fun hw => ?_⟩, fun w hop hset => ?_⟩
  · rw [← (encodeWritesDecodedWord w i hdec).1, henc]
  · rw [BitVec.eq_of_toNat_eq (hw.trans henc.symm)]
    exact decodeReadsEncodedCommand i hwf
  · exact decode_of_reserved hrow ((opOf_eq w).trans hop).symm hset

theorem encodedAs_wordN {op : Byte} {i : Instr} (hrow : (op.toNat, 0x00FFFFFF) ∈ rowMasks) (hwf : i.wf = true)
    (henc : encode i = wordN op) : EncodedAs op.toNat 0x00FFFFFF 0 i :=
  encodedAs_of_encode hrow hwf (by rw [henc, wordN_toNat, Nat.add_zero])

theorem encodedAs_wordW {op : Byte} {i : Instr} {n : Nat} (hrow : (op.toNat, 0x00FFFF80) ∈ rowMasks)
    (hwf : i.wf = true) (hn : n < 128) (henc : encode i = wordW op n) : EncodedAs op.toNat 0x00FFFF80 n i :=
  encodedAs_of_encode hrow hwf (by rw [henc, wordW_toNat, Nat.mod_eq_of_lt (b := 2 ^ 7) hn])

theorem encodedAs_wordI16 {op : Byte} {i : Instr} {m : Nat} (hrow : (op.toNat, 0x00FF0000) ∈ rowMasks)
    (hwf : i.wf = true) (hm : m < 65536) (henc : encode i = wordI16 op m) : EncodedAs op.toNat 0x00FF0000 m i :=
  encodedAs_of_encode hrow hwf (by rw [henc, wordI16_toNat, Nat.mod_eq_of_lt (b := 2 ^ 16) hm])

end Sys2Proof.Proofs.Encoding
end

section
/-! PROOFS. The bit cursor (O20, O21, O22, O23): the checks that the three reading commands share, then what each does
with the value it read. -/

namespace Sys2Proof.Proofs.BitCursor

open Sys2Proof Sys2Proof.Machine Sys2Proof.Safety Sys2Proof.Laws Sys2Proof.Proofs.Encoding

/-! ### The checks of R101, each with the condition it answers to -/

theorem viewRead_of_short {n : Nat} {s : State} (hn : 1 ≤ n) (hshort : s.bcLen.toNat < s.bcPos.toNat + n) :
    viewRead n s = .error .short := by
  rcases viewRead_cases n s with ⟨h0, -⟩ | ⟨-, -, hv⟩ | ⟨-, hroom, -⟩ | ⟨-, hroom, -⟩
  · omega
  · exact hv
  · omega
  · omega

theorem viewRead_of_outside {n : Nat} {s : State} (hn : 1 ≤ n) (hroom : s.bcPos.toNat + n ≤ s.bcLen.toNat)
    (hout : Config.dmemSize ≤ s.bcBase.toNat + (s.bcPos.toNat + n - 1) / 8) : viewRead n s = .error .addr := by
  rcases viewRead_cases n s with ⟨h0, -⟩ | ⟨-, hshort, -⟩ | ⟨-, -, -, hv⟩ | ⟨-, -, hin, -⟩
  · omega
  · omega
  · exact hv
  · omega

/-- A read of no bits gives 0, the empty sum of R100, wherever the cursor stands. -/
theorem viewRead_of_held {n : Nat} {s : State} (hheld : n = 0 ∨ s.bcPos.toNat + n ≤ s.bcLen.toNat ∧
      s.bcBase.toNat + (s.bcPos.toNat + n - 1) / 8 < Config.dmemSize) :
    viewRead n s = .ok (readBits s.mem s.bcBase.toNat s.bcPos.toNat n) := by
  rw [readBits_eq]
  rcases viewRead_cases n s with ⟨rfl, hv⟩ | ⟨hn, hshort, -⟩ | ⟨hn, -, hout, -⟩ | ⟨-, -, -, hv⟩
  · exact hv
  · omega
  · omega
  · exact hv

/-! ### The three reading commands as one -/

/-- What BC.RDU, BC.PEEK and BC.RDS do: BAD_OPERAND for a count that the command refuses, then the view's checks, then
the command's own use `k` of the value. -/
def readThen (refused : Prop) [Decidable refused] (n : Nat) (k : Nat → State) (s : State) : Except Cause State :=
  if refused then .error .badOperand
  else match viewRead n s with
    | .error c => .error c
    | .ok v => .ok (k v)

theorem exec_bcRdu (n : Nat) (s : State) :
    exec (.bcRdu n) s = finish (.bcRdu n) s (readThen (n > 64) n (fun v => advanceCursor n (setRes v s)) s) := rfl

theorem exec_bcPeek (n : Nat) (s : State) :
    exec (.bcPeek n) s = finish (.bcPeek n) s (readThen (n > 64) n (fun v => setRes v s) s) := rfl

theorem exec_bcRds (n : Nat) (s : State) :
    exec (.bcRds n) s = finish (.bcRds n) s (readThen (n = 0 ∨ n > 64) n (fun u =>
      advanceCursor n { s with res := BitVec.ofInt 64 (signedField n u), inv := mostNegative n u }) s) := rfl

/-- The four outcomes of a reading command `i`, in the order of its checks. -/
theorem exec_of_readThen {i : Instr} {refused : Prop} [Decidable refused] {n : Nat} {k : Nat → State} {s : State}
    (hexec : exec i s = finish i s (readThen refused n k s)) :
    (refused → exec i s = .next (raiseCmdError .badOperand (encode i) s)) ∧
    (¬ refused → 1 ≤ n → s.bcLen.toNat < s.bcPos.toNat + n →
      exec i s = .next (raiseCmdError .short (encode i) s)) ∧
    (¬ refused → 1 ≤ n → s.bcPos.toNat + n ≤ s.bcLen.toNat →
      Config.dmemSize ≤ s.bcBase.toNat + (s.bcPos.toNat + n - 1) / 8 →
      exec i s = .next (raiseCmdError .addr (encode i) s)) ∧
    (¬ refused → (n = 0 ∨ s.bcPos.toNat + n ≤ s.bcLen.toNat ∧
        s.bcBase.toNat + (s.bcPos.toNat + n - 1) / 8 < Config.dmemSize) →
      exec i s = .next (k (readBits s.mem s.bcBase.toNat s.bcPos.toNat n))) := by
  rw [hexec, readThen]
  refine ⟨fun hr => ?badCount, fun hr hn hshort => ?short, fun hr hn hroom hout => ?outside, fun hr hheld => ?held⟩
  case badCount => rw [if_pos hr, finish_error]
  case short => rw [if_neg hr, viewRead_of_short hn hshort, finish_error]
  case outside => rw [if_neg hr, viewRead_of_outside hn hroom hout, finish_error]
  case held => rw [if_neg hr, viewRead_of_held hheld, finish_ok]

/-- Settles O20: BC.RDU is the shared read, refused above 64 bits. -/
theorem bcRduReadsUnsigned : Obligations.BcRduReadsUnsigned := by
  intro n s hn
  obtain ⟨hwide, hshort, hout, hheld⟩ := exec_of_readThen (exec_bcRdu n s)
  exact ⟨encodedAs_wordW (op := 0x10) (by decide) (decide_eq_true hn) hn rfl, fun h64 => hheld (not_lt.2 h64), hwide,
    fun h1 h64 => hshort (not_lt.2 h64) h1, fun h1 h64 => hout (not_lt.2 h64) h1⟩

/-- Settles O21: BC.PEEK is the shared read, refused above 64 bits, with the cursor left alone. -/
theorem bcPeekKeepsCursor : Obligations.BcPeekKeepsCursor := by
  intro n s hn
  obtain ⟨hwide, hshort, hout, hheld⟩ := exec_of_readThen (exec_bcPeek n s)
  exact ⟨encodedAs_wordW (op := 0x12) (by decide) (decide_eq_true hn) hn rfl, fun h64 => hheld (not_lt.2 h64), hwide,
    fun h1 h64 => hshort (not_lt.2 h64) h1, fun h1 h64 => hout (not_lt.2 h64) h1⟩

/-- Settles O22: BC.RDS is the shared read, refused for 0 bits too; the sign and FLAGS.INV are computed from the
unsigned value. -/
theorem bcRdsReadsSigned : Obligations.BcRdsReadsSigned := by
  rintro n u s hn rfl
  obtain ⟨hrefused, hshort, hout, hheld⟩ := exec_of_readThen (exec_bcRds n s)
  exact ⟨encodedAs_wordW (op := 0x11) (by decide) (decide_eq_true hn) hn rfl,
    fun h1 h64 hroom hin => hheld (by omega) (.inr ⟨hroom, hin⟩), hrefused,
    fun h1 h64 => hshort (by omega) h1, fun h1 h64 => hout (by omega) h1⟩

/-! ### Moving and measuring -/

theorem exec_bcAdv (m : Nat) (s : State) : exec (.bcAdv m) s = finish (.bcAdv m) s (skipBits m s) := rfl

/-- Settles O23: BC.ADV has the one check of R105, BC.REM none. -/
theorem bcAdvMovesAndBcRemCounts : Obligations.BcAdvMovesAndBcRemCounts := by
  intro m s hm
  refine ⟨encodedAs_wordI16 (op := 0x13) (by decide) (decide_eq_true hm) hm rfl,
    encodedAs_wordN (op := 0x14) (by decide) rfl rfl, fun hroom => ?moves, fun hshort => ?short, fun _ => ?counts⟩
  case moves => rw [exec_bcAdv, skipBits, if_neg (not_lt.2 hroom), finish_ok]; rfl
  case short => rw [exec_bcAdv, skipBits, if_pos hshort, finish_error]
  case counts => rfl

end Sys2Proof.Proofs.BitCursor
end

section
/-! PROOFS. The bit writer (O24, O25) and its round trip with the cursor (O26): what the sink holds after a write, bit
by bit in R100's numbers. -/

namespace Sys2Proof.Proofs.BitWriter

open Sys2Proof Sys2Proof.Machine Sys2Proof.Safety Sys2Proof.Laws Sys2Proof.Proofs.Words Sys2Proof.Proofs.Encoding
  Sys2Proof.Proofs.BitCursor

/-! ### The writer's checks, each with the condition it answers to -/

section
variable {n : Nat} {bit : Nat → Bool} {s : State}

theorem sinkWrite_of_full (hfull : s.bwCap.toNat < s.bwPos.toNat + n) : sinkWrite n bit s = .error .wfull := by
  rcases sinkWrite_cases n bit s with ⟨-, hw⟩ | ⟨hroom, -⟩ | ⟨hroom, -⟩
  · exact hw
  · omega
  · omega

theorem sinkWrite_of_outside (hn : 1 ≤ n) (hroom : s.bwPos.toNat + n ≤ s.bwCap.toNat)
    (hout : Config.dmemSize ≤ s.bwBase.toNat + (s.bwPos.toNat + n - 1) / 8) :
    sinkWrite n bit s = .error .addr := by
  rcases sinkWrite_cases n bit s with ⟨hfull, -⟩ | ⟨-, -, -, hw⟩ | ⟨-, hin, -⟩
  · omega
  · exact hw
  · omega

theorem sinkWrite_of_room (hroom : s.bwPos.toNat + n ≤ s.bwCap.toNat)
    (hin : n = 0 ∨ s.bwBase.toNat + (s.bwPos.toNat + n - 1) / 8 < Config.dmemSize) :
    sinkWrite n bit s = .ok { s with
      mem := s.mem.writeBits s.bwBase.toNat s.bwPos.toNat bit n
      bwPos := BitVec.ofNat 32 (s.bwPos.toNat + n) } := by
  rcases sinkWrite_cases n bit s with ⟨hfull, -⟩ | ⟨-, hn, hout, -⟩ | ⟨-, -, hw⟩
  · omega
  · omega
  · exact hw

end

/-! ### What the sink holds after a write -/

theorem viewBit_writeBits {m : Memory} (h : m.wf = true) {base p n : Nat} (bit : Nat → Bool)
    (hin : n = 0 ∨ base + (p + n - 1) / 8 < Config.dmemSize) (k : Nat) :
    viewBit (m.writeBits base p bit n) base k =
      if p ≤ k ∧ k < p + n then (bit (k - p)).toNat else viewBit m base k := by
  rw [viewBit_eq, viewBit_eq, readBit_writeBits h bit hin, apply_ite Bool.toNat]

theorem readByte_writeBits_of_not_touched {m : Memory} (h : m.wf = true) {base p n a : Nat} (bit : Nat → Bool)
    (ha : ¬ touched base p n a) : (m.writeBits base p bit n).readByte a = m.readByte a := by
  refine readByte_writeBits h bit ?_
  unfold touched at ha
  omega

/-! ### The field that BW.WR writes -/

/-- ARG1:ARG0 as R109's number. -/
theorem writerValue_toNat (s : State) : (writerValue s).toNat = s.arg1.toNat * 2 ^ 32 + s.arg0.toNat :=
  toNat_append_eq_add _ _

/-- Bit `i` of the field, counted from the most significant of its `n`. -/
def fieldBit (n : Nat) (s : State) (i : Nat) : Bool := (writerValue s).getLsbD (n - 1 - i)

theorem fieldBit_eq_testBit (n : Nat) (s : State) (i : Nat) :
    fieldBit n s i = (s.arg1.toNat * 2 ^ 32 + s.arg0.toNat).testBit (n - 1 - i) := by
  rw [fieldBit, BitVec.getLsbD, writerValue_toNat]

theorem fieldBit_toNat (n : Nat) (s : State) (i : Nat) :
    (fieldBit n s i).toNat = (s.arg1.toNat * 2 ^ 32 + s.arg0.toNat) / 2 ^ (n - 1 - i) % 2 := by
  rw [fieldBit_eq_testBit, Nat.toNat_testBit]

theorem exec_bwWr {n : Nat} (s : State) (h64 : n ≤ 64) :
    exec (.bwWr n) s = finish (.bwWr n) s (sinkWrite n (fieldBit n s) s) :=
  congrArg (finish (.bwWr n) s) (if_neg (not_lt.2 h64))

theorem exec_bwWr_of_wide {n : Nat} (s : State) (h64 : 64 < n) :
    exec (.bwWr n) s = .next (raiseCmdError .badOperand (encode (.bwWr n)) s) :=
  congrArg (finish (.bwWr n) s) (if_pos h64)

theorem exec_bwAlign (s : State) :
    exec .bwAlign s = finish .bwAlign s (sinkWrite ((8 - s.bwPos.toNat % 8) % 8) (fun _ => false) s) := rfl

/-- Settles O24: a refused count, or the sink's checks and then the bits of the field. -/
theorem bwWrAppendsBits : Obligations.BwWrAppendsBits := by
  intro n s hn hwf
  refine ⟨encodedAs_wordW (op := 0x18) (by decide) (decide_eq_true hn) hn rfl, fun h64 hroom hin => ?room,
    exec_bwWr_of_wide s, fun h64 hfull => ?full, fun h1 h64 hroom hout => ?outside⟩
  case room =>
    refine ⟨_, by rw [exec_bwWr s h64, sinkWrite_of_room hroom hin, finish_ok], fun k => ?_, fun a ha => ?_⟩
    · rw [viewBit_writeBits hwf _ hin, fieldBit_toNat]
    · exact readByte_writeBits_of_not_touched hwf _ ha
  case full => rw [exec_bwWr s h64, sinkWrite_of_full hfull, finish_error]
  case outside => rw [exec_bwWr s h64, sinkWrite_of_outside h1 hroom hout, finish_error]

/-- Settles O25: the sink's checks, then zero bits. -/
theorem bwAlignPadsWithZeros : Obligations.BwAlignPadsWithZeros := by
  rintro m s hwf rfl
  refine ⟨encodedAs_wordN (op := 0x19) (by decide) rfl rfl, ?_⟩
  rw [exec_bwAlign]
  refine ⟨fun hroom hin => ?room, fun hfull => ?full, fun h1 hroom hout => ?outside⟩
  case room =>
    refine ⟨_, by rw [sinkWrite_of_room hroom hin, finish_ok], fun k => ?_, fun a ha => ?_⟩
    · exact viewBit_writeBits hwf _ hin k
    · exact readByte_writeBits_of_not_touched hwf _ ha
  case full => rw [sinkWrite_of_full hfull, finish_error]
  case outside => rw [sinkWrite_of_outside h1 hroom hout, finish_error]

/-! ### The round trip (R111) -/

theorem bitsVal_congr {f g : Nat → Bool} {n : Nat} (h : ∀ i < n, f i = g i) : bitsVal f n = bitsVal g n := by
  induction n with
  | zero => rfl
  | succ n ih => rw [bitsVal, bitsVal, ih fun i hi => h i (by omega), h n (by omega)]

/-- The low `n` bits of a number, most significant first, are the number modulo `2^n`. -/
theorem bitsVal_testBit (v n : Nat) : bitsVal (fun i => v.testBit (n - 1 - i)) n = v % 2 ^ n := by
  induction n generalizing v with
  | zero => simp [bitsVal, Nat.mod_one]
  | succ n ih =>
    have hhigh : bitsVal (fun i => v.testBit (n + 1 - 1 - i)) n = v / 2 % 2 ^ n := by
      rw [← ih (v / 2)]
      refine bitsVal_congr fun i hi => ?_
      rw [← Nat.testBit_add_one]
      congr 1
      omega
    rw [bitsVal, hhigh, Nat.toNat_testBit, Nat.pow_succ', Nat.mod_mul]
    simp [Nat.add_comm]

/-- Bits read back over the positions just written. -/
theorem readBits_writeBits {m : Memory} (h : m.wf = true) {base p n : Nat} (bit : Nat → Bool)
    (hin : n = 0 ∨ base + (p + n - 1) / 8 < Config.dmemSize) :
    readBits (m.writeBits base p bit n) base p n = bitsVal bit n := by
  rw [readBits_eq]
  refine bitsVal_congr fun i hi => ?_
  rw [readBit_writeBits h bit hin, if_pos (by omega), Nat.add_sub_cancel_left]

/-- Settles O26: BC.PEEK reads the bits that BW.WR has put at the same place (O21). -/
theorem writtenFieldReadsBack : Obligations.WrittenFieldReadsBack := by
  intro n s t hwf h64 hroom hin hexec
  rw [exec_bwWr s h64, sinkWrite_of_room hroom hin, finish_ok] at hexec
  obtain rfl := Host.Outcome.next.inj hexec
  obtain ⟨-, hpeek, -⟩ := bcPeekKeepsCursor n { s with
    mem := s.mem.writeBits s.bwBase.toNat s.bwPos.toNat (fieldBit n s) n
    bwPos := BitVec.ofNat 32 (s.bwPos.toNat + n)
    bcBase := s.bwBase, bcLen := s.bwCap, bcPos := s.bwPos } (by omega)
  rw [hpeek h64 (hin.imp_right fun hlast => ⟨hroom, hlast⟩), readBits_writeBits hwf _ hin,
    bitsVal_congr fun i _ => fieldBit_eq_testBit n s i, bitsVal_testBit]

end Sys2Proof.Proofs.BitWriter
end

section
/-! PROOFS. The encoding clause of format I8 (R81, R88), beside the other three formats. -/

namespace Sys2Proof.Proofs.Encoding

open Sys2Proof Sys2Proof.Machine Sys2Proof.Safety

theorem encodedAs_wordI8 {op b : Byte} {i : Instr} (hrow : (op.toNat, 0x00FFFF00) ∈ rowMasks) (hwf : i.wf = true)
    (henc : encode i = wordI8 op b) : EncodedAs op.toNat 0x00FFFF00 b.toNat i :=
  encodedAs_of_encode hrow hwf (by rw [henc, wordI8_toNat])

end Sys2Proof.Proofs.Encoding
end

section
/-! PROOFS. CRC-24Q as a shift register (R120, R125): one turn of the division without a message bit, what eight turns
of it are to the table and to the bit-by-bit division, and when a byte's step leaves a low byte 0. -/

namespace Sys2Proof.Proofs.CrcDivision

open Sys2Proof Sys2Proof.Machine Sys2Proof.Safety

/-! ### One turn of the division -/

/-- What the bit that leaves the remainder takes off: the polynomial without its top term. -/
def feedback (bit : Bool) : BitVec 24 := if bit then 0x864CFB#24 else 0#24

theorem feedback_xor (x y : Bool) : feedback (x ^^ y) = feedback x ^^^ feedback y := by
  cases x <;> cases y <;> rfl

/-- The polynomial is odd. -/
theorem feedback_getLsbD_zero (x : Bool) : (feedback x).getLsbD 0 = x := by cases x <;> rfl

/-- One shift of the remainder: `crcShift` without its carry bit. -/
def crcTurn (r : BitVec 24) : BitVec 24 := (r <<< 1) ^^^ feedback (r.getLsbD 23)

theorem crcTurn_xor (a b : BitVec 24) : crcTurn (a ^^^ b) = crcTurn a ^^^ crcTurn b := by
  simp only [crcTurn, BitVec.getLsbD_xor, feedback_xor, BitVec.shiftLeft_xor_distrib]
  ac_rfl

theorem iterate_crcTurn_xor (k : Nat) (a b : BitVec 24) :
    crcTurn^[k] (a ^^^ b) = crcTurn^[k] a ^^^ crcTurn^[k] b := by
  induction k with
  | zero => rfl
  | succ k ih => simp only [Function.iterate_succ_apply', ih, crcTurn_xor]

/-- The bit that leaves comes back as bit 0. -/
theorem crcTurn_getLsbD_zero (r : BitVec 24) : (crcTurn r).getLsbD 0 = r.getLsbD 23 := by
  rw [crcTurn, BitVec.getLsbD_xor, feedback_getLsbD_zero, BitVec.getLsbD_shiftLeft]
  simp

theorem crcTurn_of_top_zero {r : BitVec 24} (h : r.getLsbD 23 = false) : crcTurn r = r <<< 1 := by
  rw [crcTurn, h]
  exact BitVec.xor_zero

/-! ### Turns that only shift -/

/-- While zeros leave, nothing is taken off. -/
theorem iterate_crcTurn_of_high_zero {r : BitVec 24} {k : Nat} (hr : ∀ j, 24 ≤ j + k → r.getLsbD j = false) :
    crcTurn^[k] r = r <<< k := by
  induction k with
  | zero => simp
  | succ k ih =>
    have hshift : crcTurn^[k] r = r <<< k := ih fun j hj => hr j (by omega)
    have htop : (r <<< k).getLsbD 23 = false := by
      rw [BitVec.getLsbD_shiftLeft, hr (23 - k) (by omega), Bool.and_false]
    rw [Function.iterate_succ_apply', hshift, crcTurn_of_top_zero htop, ← BitVec.shiftLeft_add]

/-- Every 1 that leaves shows in the low bits, so low bits 0 tell that only zeros have left. -/
theorem high_zero_of_low_zero {r : BitVec 24} {k : Nat} (hk : k ≤ 24)
    (hlow : ∀ j < k, (crcTurn^[k] r).getLsbD j = false) : ∀ j, 24 ≤ j + k → r.getLsbD j = false := by
  induction k with
  | zero => exact fun j hj => BitVec.getLsbD_of_ge r j hj
  | succ k ih =>
    rw [Function.iterate_succ_apply'] at hlow
    have htop : (crcTurn^[k] r).getLsbD 23 = false := (crcTurn_getLsbD_zero _).symm.trans (hlow 0 (by omega))
    rw [crcTurn_of_top_zero htop] at hlow
    have hhigh : ∀ j, 24 ≤ j + k → r.getLsbD j = false := ih (by omega) fun j hj => by
      rw [← hlow (j + 1) (by omega), BitVec.getLsbD_shiftLeft]
      simp [show j + 1 < 24 by omega]
    intro j hj
    by_cases hlast : j + k = 23
    · rw [iterate_crcTurn_of_high_zero hhigh, BitVec.getLsbD_shiftLeft, show 23 - k = j by omega] at htop
      simpa [show ¬ 23 < k by omega] using htop
    · exact hhigh j (by omega)

/-! ### The table (R120) -/

theorem setWidth_shiftLeft (r : BitVec 25) (k : Nat) : (r <<< k).setWidth 24 = r.setWidth 24 <<< k := by
  ext j hj
  simp

theorem setWidth_crcShift (r : BitVec 25) : (crcShift r).setWidth 24 = crcTurn (r.setWidth 24) := by
  have hcarry : (r <<< 1).getLsbD 24 = (r.setWidth 24).getLsbD 23 := by simp
  rw [crcShift, crcTurn, hcarry, feedback, ← setWidth_shiftLeft]
  split_ifs
  · rw [BitVec.setWidth_xor]
    rfl
  · exact BitVec.xor_zero.symm

/-- A byte at the top of the remainder, where the next message byte enters. -/
def atTop (b : Byte) : BitVec 24 := b.setWidth 24 <<< 16

theorem setWidth_iterate_crcShift (k : Nat) (r : BitVec 25) :
    (crcShift^[k] r).setWidth 24 = crcTurn^[k] (r.setWidth 24) := by
  induction k with
  | zero => rfl
  | succ k ih => rw [Function.iterate_succ_apply', Function.iterate_succ_apply', setWidth_crcShift, ih]

theorem crcTable_eq (i : Byte) : crcTable i = crcTurn^[8] (atTop i) := by
  rw [crcTable, setWidth_iterate_crcShift, setWidth_shiftLeft, BitVec.setWidth_setWidth_of_le _ (by decide)]
  rfl

theorem atTop_xor (a b : Byte) : atTop (a ^^^ b) = atTop a ^^^ atTop b := by
  simp [atTop, BitVec.setWidth_xor, BitVec.shiftLeft_xor_distrib]

theorem atTop_shiftLeft_eight (b : Byte) : atTop b <<< 8 = 0 := by
  rw [atTop, ← BitVec.shiftLeft_add]
  exact BitVec.shiftLeft_eq_zero le_rfl

/-- Adding the top byte to the remainder clears it. -/
theorem xor_atTop_high {c : BitVec 24} {j : Nat} (hj : 24 ≤ j + 8) (b : Byte) :
    (c ^^^ atTop b).getLsbD j = (c.extractLsb' 16 8 ^^^ b).getLsbD (j - 16) := by
  by_cases h24 : j < 24
  · simp [atTop, h24, show ¬ j < 16 by omega, show j - 16 < 8 by omega, show 16 + (j - 16) = j by omega]
  · rw [BitVec.getLsbD_of_ge _ j (by omega), BitVec.getLsbD_of_ge _ (j - 16) (by omega)]

/-- `Step24` is eight turns with the byte added at the top: the table serves the top byte, the rest only shifts. -/
theorem crcStep_eq (c : BitVec 24) (b : Byte) : crcStep c b = crcTurn^[8] (c ^^^ atTop b) := by
  have hsplit : c ^^^ atTop b = (c ^^^ atTop (c.extractLsb' 16 8)) ^^^ atTop (c.extractLsb' 16 8 ^^^ b) := by
    rw [atTop_xor, BitVec.xor_assoc, ← BitVec.xor_assoc (atTop _), BitVec.xor_self, BitVec.zero_xor]
  have hrest : ∀ j, 24 ≤ j + 8 → (c ^^^ atTop (c.extractLsb' 16 8)).getLsbD j = false := fun j hj => by
    rw [xor_atTop_high hj, BitVec.xor_self, BitVec.getLsbD_zero]
  have hshift : (c ^^^ atTop (c.extractLsb' 16 8)) <<< 8 = c <<< 8 := by
    rw [BitVec.shiftLeft_xor_distrib, atTop_shiftLeft_eight]
    exact BitVec.xor_zero
  rw [hsplit, iterate_crcTurn_xor, iterate_crcTurn_of_high_zero hrest, hshift, crcStep, crcTable_eq]

/-! ### The bit-by-bit division -/

/-- A turn that takes in the top bit of `x` as its message bit is a turn of the remainder with `x` added. -/
theorem crcTurn_add (r x : BitVec 24) :
    (r <<< 1) ^^^ feedback (r.getLsbD 23 ^^ x.getLsbD 23) = crcTurn (r ^^^ x) ^^^ (x <<< 1) := by
  rw [crcTurn, BitVec.getLsbD_xor, BitVec.shiftLeft_xor_distrib]
  have hcancel : x <<< 1 ^^^ x <<< 1 = 0#24 := BitVec.xor_self
  calc _ = r <<< 1 ^^^ feedback (r.getLsbD 23 ^^ x.getLsbD 23) ^^^ (x <<< 1 ^^^ x <<< 1) := by
        rw [hcancel, BitVec.xor_zero]
    _ = _ := by ac_rfl

/-- After `k` message bits the remainder, with the bits still to come added, is `k` turns of the sum. -/
theorem foldl_crcBits (c : BitVec 24) (b : Byte) {k : Nat} (hk : k ≤ 8) :
    (List.range k).foldl (fun (r : BitVec 24) (i : Nat) =>
      (r <<< 1) ^^^ feedback (r.getLsbD 23 ^^ b.getLsbD (7 - i))) c =
      crcTurn^[k] (c ^^^ atTop b) ^^^ (atTop b <<< k) := by
  induction k with
  | zero => simp
  | succ k ih =>
    have hbit : b.getLsbD (7 - k) = (atTop b <<< k).getLsbD 23 := by
      simp [atTop, show ¬ 23 < k by omega, show ¬ 23 - k < 16 by omega, show 23 - k - 16 = 7 - k by omega]
    rw [List.range_succ, List.foldl_append, ih (by omega), List.foldl_cons, List.foldl_nil, hbit, crcTurn_add,
      BitVec.xor_assoc (crcTurn^[k] _), BitVec.xor_self, BitVec.xor_zero, Function.iterate_succ_apply',
      BitVec.shiftLeft_add]

theorem crcStep_eq_crcBits (c : BitVec 24) (b : Byte) : crcStep c b = crcBits c b := by
  have hfold := foldl_crcBits c b le_rfl
  rw [atTop_shiftLeft_eight] at hfold
  exact (crcStep_eq c b).trans (hfold.trans BitVec.xor_zero).symm

/-! ### The residual (R129) -/

/-- A step whose low byte comes out 0 took in the remainder's own top byte and shifted the rest. -/
theorem crcStep_of_low_zero {c : BitVec 24} {b : Byte} (h : ∀ j < 8, (crcStep c b).getLsbD j = false) :
    b = c.extractLsb' 16 8 ∧ crcStep c b = c <<< 8 := by
  rw [crcStep_eq] at h ⊢
  have hhigh := high_zero_of_low_zero (by decide) h
  have htop : c.extractLsb' 16 8 ^^^ b = 0 := by
    apply BitVec.eq_of_getLsbD_eq
    intro j hj
    have hbit := xor_atTop_high (c := c) (j := j + 16) (by omega) b
    rw [hhigh (j + 16) (by omega), Nat.add_sub_cancel] at hbit
    exact hbit.symm.trans BitVec.getLsbD_zero.symm
  refine ⟨(BitVec.xor_eq_zero_iff.1 htop).symm, ?_⟩
  rw [iterate_crcTurn_of_high_zero hhigh, BitVec.shiftLeft_xor_distrib, atTop_shiftLeft_eight]
  exact BitVec.xor_zero

/-- The remainder's own top byte leaves only the shift. -/
theorem crcStep_top (c : BitVec 24) : crcStep c (c.extractLsb' 16 8) = c <<< 8 := by
  rw [crcStep, BitVec.xor_self]
  exact BitVec.xor_zero

theorem low_zero_of_shiftLeft {c : BitVec 24} {k : Nat} (h : ∀ j < k + 8, (c <<< 8).getLsbD j = false)
    (hk : k ≤ 16) : ∀ j < k, c.getLsbD j = false := by
  intro j hj
  rw [← h (j + 8) (by omega), BitVec.getLsbD_shiftLeft]
  simp [show j + 8 < 24 by omega]

theorem topByte_shiftLeft (c : BitVec 24) {k : Nat} (hk : k ≤ 16) :
    (c <<< k).extractLsb' 16 8 = c.extractLsb' (16 - k) 8 := by
  apply BitVec.eq_of_getLsbD_eq
  intro j hj
  simp only [BitVec.getLsbD_extractLsb', BitVec.getLsbD_shiftLeft, show 16 + j < 24 by omega,
    show ¬ 16 + j < k by omega, show 16 + j - k = 16 - k + j by omega]
  simp

theorem crcTrailer_eq (c : BitVec 24) : crcTrailer c =
    [c.extractLsb' 16 8, (c <<< 8).extractLsb' 16 8, (c <<< 8 <<< 8).extractLsb' 16 8] := by
  rw [← BitVec.shiftLeft_add, topByte_shiftLeft c (by decide), topByte_shiftLeft c (by decide)]
  rfl

/-- Three bytes more bring the remainder to 0 exactly when they are its trailer (R126, R129): backwards from 0, each
byte must be the top byte of a remainder whose low bits are 0. -/
theorem crc24q_three_eq_zero_iff (c : BitVec 24) (x y z : Byte) :
    crc24q c [x, y, z] = 0 ↔ [x, y, z] = crcTrailer c := by
  rw [crcTrailer_eq]
  constructor
  · intro h
    have h0 : crcStep (crcStep (crcStep c x) y) z = 0 := h
    obtain ⟨hz, h1⟩ := crcStep_of_low_zero fun j _ => by rw [h0]; exact BitVec.getLsbD_zero
    have hlow16 : ∀ j < 16, (crcStep (crcStep c x) y).getLsbD j = false :=
      low_zero_of_shiftLeft (k := 16) (fun j _ => by rw [← h1, h0]; exact BitVec.getLsbD_zero) le_rfl
    obtain ⟨hy, h2⟩ := crcStep_of_low_zero fun j hj => hlow16 j (by omega)
    have hlow8 : ∀ j < 8, (crcStep c x).getLsbD j = false :=
      low_zero_of_shiftLeft (k := 8) (fun j hj => by rw [← h2, hlow16 j hj]) (by decide)
    obtain ⟨hx, h3⟩ := crcStep_of_low_zero hlow8
    rw [hz, h2, hy, h3, hx]
  · intro h
    obtain ⟨rfl, rfl, rfl⟩ : x = _ ∧ y = _ ∧ z = _ := by simpa using h
    simp only [crc24q, List.foldl_cons, List.foldl_nil, crcStep_top, ← BitVec.shiftLeft_add]
    exact BitVec.shiftLeft_eq_zero le_rfl

end Sys2Proof.Proofs.CrcDivision
end

section
/-! PROOFS. The four CRC commands (O27, O28, O29, O30). -/

namespace Sys2Proof.Proofs.CrcCommands

open Sys2Proof Sys2Proof.Machine Sys2Proof.Safety Sys2Proof.Laws Sys2Proof.Proofs.Encoding
  Sys2Proof.Proofs.CrcDivision

/-- Settles O27: CRC.INIT has no check. -/
theorem crcInitLoadsInitialValue : Obligations.CrcInitLoadsInitialValue :=
  ⟨encodedAs_wordN (op := 0x20) (by decide) rfl rfl, fun _ => rfl⟩

theorem exec_crcByte (b : Byte) (s : State) : exec (.crcByte b) s = .next { s with crc := crcStep s.crc b } := rfl

/-- Settles O28: the table's step is the bit-by-bit division. -/
theorem crcByteDividesByPolynomial : Obligations.CrcByteDividesByPolynomial := by
  intro b s
  refine ⟨encodedAs_wordI8 (op := 0x21) (by decide) rfl rfl, ?_⟩
  rw [exec_crcByte, crcStep_eq_crcBits]

/-! ### CRC.MEM and CRC.CHK: R62's range check, then the bytes -/

theorem inDmem_of_outside {a n : Nat} (hn : 1 ≤ n) (h : Config.dmemSize < a + n) : ¬ inDmem a n = true := by
  rw [inDmem_iff]
  omega

theorem exec_crcMem (s : State) : exec .crcMem s = finish .crcMem s (foldDmem s) := rfl

theorem exec_crcChk (s : State) : exec .crcChk s = finish .crcChk s (checkTrailer s) := rfl

theorem crc24q_readBytes (c : BitVec 24) (m : Memory) (a n : Nat) :
    crc24q c (m.readBytes a n) = (List.range n).foldl (fun c i => crcStep c (m.readByte (a + i))) c :=
  List.foldl_map

theorem be24_readBytes_three (m : Memory) (a : Nat) : be24 (m.readBytes a 3) 0 =
    65536 * (m.readByte a).toNat + 256 * (m.readByte (a + 1)).toNat + (m.readByte (a + 2)).toNat := by
  simp only [be24, be16, byteAt, readBytes_getD m a (show 0 < 3 by decide),
    readBytes_getD m a (show 0 + 1 < 3 by decide), readBytes_getD m a (show 0 + 2 < 3 by decide)]
  simp only [Nat.add_zero, Nat.zero_add]
  omega

/-- Settles O29: CRC.MEM's fold over the list of bytes is the fold over their addresses. -/
theorem crcMemFoldsBytes : Obligations.CrcMemFoldsBytes := by
  refine ⟨encodedAs_wordN (op := 0x22) (by decide) rfl rfl, fun s => ⟨fun hin => ?inside, fun hn hout => ?outside⟩⟩
  case inside => rw [exec_crcMem, foldDmem, if_pos (inDmem_iff.2 hin), finish_ok, crc24q_readBytes]
  case outside => rw [exec_crcMem, foldDmem, if_neg (inDmem_of_outside hn hout), finish_error]

/-- Settles O30: the comparison is with the three bytes in big-endian order. -/
theorem crcChkComparesTrailer : Obligations.CrcChkComparesTrailer := by
  refine ⟨encodedAs_wordN (op := 0x23) (by decide) rfl rfl, fun s => ⟨fun hin => ?inside, fun hout => ?outside⟩⟩
  case inside => rw [exec_crcChk, checkTrailer, if_pos (inDmem_iff.2 (.inr hin)), finish_ok, be24_readBytes_three]
  case outside => rw [exec_crcChk, checkTrailer, if_neg (inDmem_of_outside (by decide) hout), finish_error]

end Sys2Proof.Proofs.CrcCommands
end

section
/-! PROOFS. RTCM 3 frames: what the demultiplexer's rule answers for a frame and for its beginnings (O32), and what
RTCM.ENC writes (O31). -/

namespace Sys2Proof.Proofs.RtcmFrame

open Sys2Proof Sys2Proof.Machine Sys2Proof.Safety Sys2Proof.Laws Sys2Proof.Proofs.Encoding
  Sys2Proof.Proofs.CrcDivision

/-! ### The trailer (R126) -/

theorem crcTrailer_eq_iff (c : BitVec 24) (x y z : Byte) :
    [x, y, z] = crcTrailer c ↔ c.toNat = 65536 * x.toNat + 256 * y.toNat + z.toNat := by
  have hc := c.isLt
  have hx := x.isLt
  have hy := y.isLt
  have hz := z.isLt
  simp only [crcTrailer, List.cons.injEq, and_true, ← BitVec.toNat_inj, BitVec.extractLsb'_toNat,
    Nat.shiftRight_eq_div_pow]
  omega

theorem crcTrailer_length (c : BitVec 24) : (crcTrailer c).length = 3 := rfl

/-- The trailer byte by byte, as RTCM.ENC's numbers. -/
theorem crcTrailer_eq_ofNat (c : BitVec 24) : crcTrailer c =
    [BitVec.ofNat 8 (c.toNat / 65536), BitVec.ofNat 8 (c.toNat / 256 % 256), BitVec.ofNat 8 (c.toNat % 256)] := by
  have hc := c.isLt
  refine ((crcTrailer_eq_iff c _ _ _).2 ?_).symm
  simp only [BitVec.toNat_ofNat]
  omega

/-! ### The RTCM 3 rule (R127, R181) -/

/-- A byte sequence of the length that its header announces, the preamble and the reserved bits right (R127). -/
structure FrameShape (f : List Byte) (len : Nat) : Prop where
  preamble : byteAt f 0 = 0xD3
  reserved : (byteAt f 1).toNat < 4
  lengthField : len = 256 * (byteAt f 1).toNat + (byteAt f 2).toNat
  nonempty : 1 ≤ len
  whole : f.length = len + 6

/-- What an accepted frame says of its record (R190). -/
def rtcmFields (f : List Byte) (len : Nat) : FrameFields :=
  plainFields (if len ≥ 2 then 16 * (byteAt f 3).toNat + (byteAt f 4).toNat / 16 else 0xFFFF) (slice f 3 (3 + len))

theorem need_of_short {p : List Byte} {n : Nat} (rest : Machine.Class) (h : p.length < n) :
    need p n rest = .needMore := if_pos h

theorem need_of_long {p : List Byte} {n : Nat} (rest : Machine.Class) (h : n ≤ p.length) : need p n rest = rest :=
  if_neg (not_lt.2 h)

theorem shiftRight_two_eq_zero {b : Byte} (h : b.toNat < 4) : b >>> 2 = 0 := by
  apply BitVec.eq_of_toNat_eq
  rw [BitVec.toNat_ushiftRight, Nat.shiftRight_eq_div_pow, Nat.div_eq_of_lt h]
  rfl

theorem byteAt_take {f : List Byte} {k i : Nat} (h : i < k) : byteAt (f.take k) i = byteAt f i := by
  simp [byteAt, h]

theorem byteAt_drop (f : List Byte) (k i : Nat) : byteAt (f.drop k) i = byteAt f (k + i) := by
  simp [byteAt]

theorem eq_byteAt_of_length_three {p : List Byte} (h : p.length = 3) : p = [byteAt p 0, byteAt p 1, byteAt p 2] := by
  obtain ⟨x, y, z, rfl⟩ := List.length_eq_three.1 h
  rfl

section
variable {init : BitVec 24} {f : List Byte} {len : Nat}

theorem drop_eq_byteAt (h : FrameShape f len) :
    f.drop (len + 3) = [byteAt f (len + 3), byteAt f (len + 4), byteAt f (len + 5)] := by
  have hthree : (f.drop (len + 3)).length = 3 := by
    rw [List.length_drop, h.whole]
    omega
  rw [eq_byteAt_of_length_three hthree]
  simp only [byteAt_drop, Nat.add_assoc, Nat.reduceAdd, Nat.add_zero]

/-- A whole frame is accepted exactly when it ends with the trailer of what precedes it (R127). -/
theorem classify_whole (h : FrameShape f len) : classify init .rtcm3 f =
    if f.drop (len + 3) = crcTrailer (crc24q init (f.take (len + 3))) then .ok (len + 6) (rtcmFields f len)
    else checksumError := by
  obtain ⟨hpre, hres, hlen, hpos, hwhole⟩ := h
  have hfield : 256 * ((byteAt f 1).toNat % 4) + (byteAt f 2).toNat = len := by omega
  have htrailer : f.drop (len + 3) = crcTrailer (crc24q init (f.take (len + 3))) ↔
      (crc24q init (slice f 0 (len + 3))).toNat = be24 f (len + 3) := by
    rw [drop_eq_byteAt ⟨hpre, hres, hlen, hpos, hwhole⟩, crcTrailer_eq_iff]
    simp only [be24, be16, slice, List.drop_zero, Nat.sub_zero, Nat.add_assoc, Nat.reduceAdd]
    omega
  rw [classify, classifyRtcm]
  simp only [hfield]
  rw [if_neg (not_not.2 hpre), need_of_long _ (by omega), if_neg (not_not.2 (shiftRight_two_eq_zero hres)),
    need_of_long _ (by omega), if_neg (by omega), need_of_long _ (by omega)]
  by_cases hcrc : (crc24q init (slice f 0 (len + 3))).toNat = be24 f (len + 3)
  · rw [if_neg (not_not.2 hcrc), if_pos (htrailer.2 hcrc), rtcmFields]
  · rw [if_pos hcrc, if_neg (mt htrailer.1 hcrc)]

/-- A proper beginning of a frame waits for the rest of it. -/
theorem classify_take (h : FrameShape f len) {k : Nat} (h1 : 1 ≤ k) (hk : k < f.length) :
    classify init .rtcm3 (f.take k) = .needMore := by
  obtain ⟨hpre, hres, hlen, hpos, hwhole⟩ := h
  have htake : (f.take k).length = k := List.length_take_of_le hk.le
  rw [classify, classifyRtcm, byteAt_take (show 0 < k by omega), if_neg (not_not.2 hpre)]
  by_cases h2 : k < 2
  · rw [need_of_short _ (by omega)]
  rw [need_of_long _ (by omega), byteAt_take (show 1 < k by omega),
    if_neg (not_not.2 (shiftRight_two_eq_zero hres))]
  by_cases h3 : k < 3
  · rw [need_of_short _ (by omega)]
  rw [need_of_long _ (by omega), byteAt_take (show 2 < k by omega), if_neg (by omega), need_of_short _ (by omega)]

theorem accepted_iff (h : FrameShape f len) : (∃ n r, classify init .rtcm3 f = .ok n r) ↔
    f.drop (len + 3) = crcTrailer (crc24q init (f.take (len + 3))) := by
  rw [classify_whole h]
  by_cases ht : f.drop (len + 3) = crcTrailer (crc24q init (f.take (len + 3)))
  · simp [ht]
  · simp [ht, checksumError]

end

/-- Settles O32: the rule compares the trailer, and the CRC goes from the trailer's remainder to 0 over exactly those
three bytes. -/
theorem rtcmFrameValidExactlyOnZeroResidual : Obligations.RtcmFrameValidExactlyOnZeroResidual := by
  intro init f len hpre hres hlen hpos hwhole
  have hf : FrameShape f len := ⟨hpre, hres, hlen, hpos, hwhole⟩
  have hsplit : crc24q init f = crc24q (crc24q init (f.take (len + 3))) (f.drop (len + 3)) := by
    rw [crc24q, crc24q, crc24q, ← List.foldl_append, List.take_append_drop]
  rw [accepted_iff hf, hsplit, drop_eq_byteAt hf, crc24q_three_eq_zero_iff]
  exact ⟨Iff.rfl, Iff.rfl⟩

/-! ### The frame around a payload (R128) -/

section
variable (init : BitVec 24) {pay : List Byte}

theorem rtcmBody_length (pay : List Byte) : (rtcmBody pay).length = pay.length + 3 := rfl

theorem rtcmFrame_length (pay : List Byte) : (rtcmFrame init pay).length = pay.length + 6 := by
  rw [rtcmFrame, List.length_append, rtcmBody_length, crcTrailer_length]

theorem rtcmFrame_shape (h1 : 1 ≤ pay.length) (h2 : pay.length ≤ 1023) :
    FrameShape (rtcmFrame init pay) pay.length where
  preamble := rfl
  reserved := by
    show (BitVec.ofNat 8 (pay.length / 256 % 4)).toNat < 4
    rw [BitVec.toNat_ofNat]
    omega
  lengthField := by
    show pay.length = 256 * (BitVec.ofNat 8 (pay.length / 256 % 4)).toNat + (BitVec.ofNat 8 (pay.length % 256)).toNat
    simp only [BitVec.toNat_ofNat]
    omega
  nonempty := h1
  whole := rtcmFrame_length init pay

theorem drop_three_rtcmFrame (pay : List Byte) :
    (rtcmFrame init pay).drop 3 = pay ++ crcTrailer (crc24q init (rtcmBody pay)) := rfl

theorem byteAt_rtcmFrame {i : Nat} (hi : i < pay.length) : byteAt (rtcmFrame init pay) (3 + i) = byteAt pay i := by
  rw [← byteAt_drop, drop_three_rtcmFrame, byteAt, byteAt, List.getD_append _ _ _ _ hi]

/-- What RTCM.ENC writes is accepted whole, the payload being the record's body. -/
theorem classify_rtcmFrame (h1 : 1 ≤ pay.length) (h2 : pay.length ≤ 1023) :
    classify init .rtcm3 (rtcmFrame init pay) = .ok (rtcmFrame init pay).length (plainFields
      (if pay.length = 1 then 0xFFFF else 16 * (byteAt pay 0).toNat + (byteAt pay 1).toNat / 16) pay) := by
  have hbody : (rtcmFrame init pay).take (pay.length + 3) = rtcmBody pay := List.take_left' (rtcmBody_length pay)
  have htrailer : (rtcmFrame init pay).drop (pay.length + 3) = crcTrailer (crc24q init (rtcmBody pay)) :=
    List.drop_left' (rtcmBody_length pay)
  have hpay : slice (rtcmFrame init pay) 3 (3 + pay.length) = pay := by
    rw [slice, drop_three_rtcmFrame, List.take_left' (by omega)]
  rw [classify_whole (rtcmFrame_shape init h1 h2), hbody, htrailer, if_pos rfl, rtcmFields, hpay, rtcmFrame_length]
  by_cases hone : pay.length = 1
  · rw [if_neg (by omega), if_pos hone]
  · rw [if_pos (by omega), if_neg hone, ← byteAt_rtcmFrame init (show 0 < pay.length by omega),
      ← byteAt_rtcmFrame init (show 1 < pay.length by omega)]

end

/-! ### RTCM.ENC -/

theorem exec_rtcmEnc (s : State) : exec .rtcmEnc s = finish .rtcmEnc s (encodeRtcm s) := rfl

/-- The payload that RTCM.ENC reads. -/
def payload (s : State) : List Byte := s.mem.readBytes s.arg0.toNat s.arg1.toNat

theorem payload_length (s : State) : (payload s).length = s.arg1.toNat := readBytes_length _ _ _

section
variable {s : State}

theorem exec_rtcmEnc_of_badLength (h : s.arg1.toNat = 0 ∨ 1023 < s.arg1.toNat) :
    exec .rtcmEnc s = .next (raiseCmdError .badOperand (encode .rtcmEnc) s) := by
  rw [exec_rtcmEnc, encodeRtcm, if_pos h, finish_error]

theorem exec_rtcmEnc_of_outside (h1 : 1 ≤ s.arg1.toNat) (h2 : s.arg1.toNat ≤ 1023)
    (hout : Config.dmemSize < s.arg0.toNat + s.arg1.toNat ∨ Config.dmemSize < s.arg2.toNat + s.arg1.toNat + 6) :
    exec .rtcmEnc s = .next (raiseCmdError .addr (encode .rtcmEnc) s) := by
  rw [exec_rtcmEnc, encodeRtcm, if_neg (by omega), if_pos hout, finish_error]

theorem exec_rtcmEnc_of_inside (h1 : 1 ≤ s.arg1.toNat) (h2 : s.arg1.toNat ≤ 1023)
    (hsrc : s.arg0.toNat + s.arg1.toNat ≤ Config.dmemSize)
    (hdst : s.arg2.toNat + s.arg1.toNat + 6 ≤ Config.dmemSize) :
    exec .rtcmEnc s = .next { s with
      mem := s.mem.writeBytes s.arg2.toNat (rtcmFrame s.params.crc24qInit (payload s))
      res := BitVec.ofNat 64 (s.arg1.toNat + 6) } := by
  rw [exec_rtcmEnc, encodeRtcm, if_neg (by omega), if_neg (by omega), finish_ok]
  rfl

end

/-- Settles O31: the refused lengths, the two ranges, and then the frame that R128 describes, stored whole. -/
theorem rtcmEncBuildsFrame : Obligations.RtcmEncBuildsFrame := by
  refine ⟨encodedAs_wordN (op := 0x28) (by decide) rfl rfl, fun s pay head c hwf hpay hhead hc => ?_⟩
  subst hpay hhead hc
  refine ⟨fun h1 h2 hsrc hdst => ?inside, exec_rtcmEnc_of_badLength, exec_rtcmEnc_of_outside⟩
  case inside =>
    refine ⟨_, exec_rtcmEnc_of_inside h1 h2 hsrc hdst, fun b => ?_⟩
    have hlen := rtcmFrame_length s.params.crc24qInit (payload s)
    rw [payload_length] at hlen
    rw [readByte_writeBytes hwf (by omega)]
    rw [rtcmFrame, crcTrailer_eq_ofNat, rtcmBody, payload_length]
    rfl

end Sys2Proof.Proofs.RtcmFrame
end

section
/-! PROOFS. A frame fed to the demultiplexer byte by byte, and with it the round trip of RTCM.ENC (O33). -/

namespace Sys2Proof.Proofs.FrameFeed

open Sys2Proof Sys2Proof.Machine Sys2Proof.Safety Sys2Proof.Laws Sys2Proof.Proofs.BitWriter
  Sys2Proof.Proofs.RtcmFrame

/-! ### One push (R172, R174) -/

section
variable {s : State}

theorem scan_of_pending_nil (fuel : Nat) (h : s.pending = []) : scan fuel s = s := by
  cases fuel with
  | zero => rfl
  | succ fuel => rw [scan, h]

theorem scan_of_needMore {fuel : Nat} (h : classify s.params.crc24qInit s.dmxCfg.kind s.pending = .needMore) :
    scan (fuel + 1) s = s := by
  rw [scan]
  split
  · rfl
  · rename_i b rest hp
    rw [← hp, h]

/-- A frame that takes all that is pending ends the scan with its delivery. -/
theorem scan_of_whole {fuel : Nat} {f : FrameFields} (hp : s.pending ≠ [])
    (h : classify s.params.crc24qInit s.dmxCfg.kind s.pending = .ok s.pending.length f) :
    scan (fuel + 1) s = deliver (frameRecord s f) { s with pending := [] } := by
  rw [scan]
  split
  · contradiction
  · rename_i b rest hcons
    rw [← hcons, h]
    simp only [List.drop_length]
    obtain ⟨hnil, -⟩ := deliver_sameInput (frameRecord s f) { s with pending := [] }
    exact scan_of_pending_nil fuel hnil

theorem push_of_needMore {b : Byte}
    (h : classify s.params.crc24qInit s.dmxCfg.kind (s.pending ++ [b]) = .needMore) :
    push s b = { s with pending := s.pending ++ [b] } :=
  scan_of_needMore (s := { s with pending := s.pending ++ [b] }) h

theorem push_of_whole {b : Byte} {f : FrameFields}
    (h : classify s.params.crc24qInit s.dmxCfg.kind (s.pending ++ [b]) = .ok (s.pending ++ [b]).length f) :
    push s b = deliver (frameRecord s f) { s with pending := [] } :=
  scan_of_whole (s := { s with pending := s.pending ++ [b] }) (by simp) h

/-! ### The bytes of one frame -/

/-- While every beginning waits, pushing only collects. -/
theorem foldl_push_of_waiting {bs : List Byte}
    (h : ∀ k, 1 ≤ k → k ≤ bs.length →
      classify s.params.crc24qInit s.dmxCfg.kind (s.pending ++ bs.take k) = .needMore) :
    bs.foldl push s = { s with pending := s.pending ++ bs } := by
  induction bs generalizing s with
  | nil => simp
  | cons b bs ih =>
    have hfirst : push s b = { s with pending := s.pending ++ [b] } :=
      push_of_needMore (by simpa using h 1 le_rfl (by simp))
    rw [List.foldl_cons, hfirst, ih fun k h1 hk => ?_]
    · simp
    · simpa using h (k + 1) (by omega) (by simpa using hk)

/-- A frame pushed from its first byte on is delivered with its last one. -/
theorem foldl_push_of_frame {bs : List Byte} {f : FrameFields} (hp : s.pending = []) (hne : bs ≠ [])
    (hwait : ∀ k, 1 ≤ k → k < bs.length → classify s.params.crc24qInit s.dmxCfg.kind (bs.take k) = .needMore)
    (hwhole : classify s.params.crc24qInit s.dmxCfg.kind bs = .ok bs.length f) :
    bs.foldl push s = deliver (frameRecord s f) s := by
  obtain ⟨front, last, rfl⟩ : ∃ front last, bs = front ++ [last] := ⟨_, _, (List.dropLast_concat_getLast hne).symm⟩
  have hfront : front.foldl push s = { s with pending := front } := by
    rw [foldl_push_of_waiting fun k h1 hk => ?_, hp, List.nil_append]
    rw [hp, List.nil_append, ← List.take_append_of_le_length hk]
    exact hwait k h1 (by simpa using Nat.lt_succ_of_le hk)
  rw [List.foldl_append, hfront, List.foldl_cons, List.foldl_nil, push_of_whole hwhole, ← hp]
  rfl

/-- No PIN filter and no best-satellite selection stands before an RTCM 3 record (R180, R194). -/
theorem deliver_of_rtcm3 {r : Record} (hk : s.dmxCfg.kind = .rtcm3) (hr : r.errmap = 0)
    (hroom : s.queue.length < Config.recqDepth) :
    deliver r s =
      { s with cntOk := s.cntOk + 1, queue := s.queue ++ [r], emitted := s.emitted + 1 } := by
  have hpin : pinRejects s r = false := by simp [pinRejects, hk, Kind.carriesPrn]
  rw [deliver, if_neg (not_not.2 hr), hpin]
  simp only [hk]
  rw [if_neg (by simp), if_neg (by simp), emit_room (by exact Nat.ne_of_lt hroom)]

end

/-! ### The round trip (R130) -/

theorem readBytes_writeBytes {m : Memory} (h : m.wf = true) {a : Nat} {bs : List Byte}
    (hr : a + bs.length ≤ Config.dmemSize) : (m.writeBytes a bs).readBytes a bs.length = bs := by
  refine List.ext_getElem (readBytes_length _ _ _) fun i h1 h2 => ?_
  simp only [Memory.readBytes, List.getElem_map, List.getElem_range]
  rw [readByte_writeBytes h hr, if_pos ⟨by omega, by omega⟩, Nat.add_sub_cancel_left]
  exact List.getD_eq_getElem _ _ h2

theorem bitsVal_add (bit : Nat → Bool) (n k : Nat) :
    bitsVal bit (n + k) = bitsVal bit n * 2 ^ k + bitsVal (fun i => bit (n + i)) k := by
  induction k with
  | zero => simp [bitsVal]
  | succ k ih =>
    rw [← Nat.add_assoc, bitsVal, bitsVal, ih, Nat.pow_succ]
    ring

/-- The first `k` bits of a byte are its upper `k` bits (R9). -/
theorem bitsVal_byteBit (b : Byte) {k : Nat} (hk : k ≤ 8) : bitsVal (byteBit b) k = b.toNat / 2 ^ (8 - k) := by
  have hb := b.isLt
  have hupper : b.toNat / 2 ^ (8 - k) < 2 ^ k := by
    rw [Nat.div_lt_iff_lt_mul (by positivity), ← pow_add, Nat.add_sub_cancel' hk]
    exact hb
  rw [← Nat.mod_eq_of_lt hupper, ← bitsVal_testBit]
  refine bitsVal_congr fun i hi => ?_
  rw [byteBit, BitVec.getLsbD, Nat.testBit_div_two_pow]
  congr 1
  omega

/-- A field of at most eight bits that begins at byte `a + j` is the upper part of that byte. -/
theorem bitsVal_readBit (m : Memory) (a j : Nat) {k : Nat} (hk : k ≤ 8) :
    bitsVal (fun i => m.readBit a (8 * j + i)) k = (m.readByte (a + j)).toNat / 2 ^ (8 - k) := by
  rw [← bitsVal_byteBit _ hk]
  refine bitsVal_congr fun i hi => ?_
  rw [Memory.readBit, byteBit, byteBit, show (8 * j + i) / 8 = j by omega, Nat.mul_add_mod]

/-- The first twelve bits of a stream are its first byte and the upper half of the second. -/
theorem readBits_twelve (m : Memory) (a : Nat) :
    readBits m a 0 12 = 16 * (m.readByte a).toNat + (m.readByte (a + 1)).toNat / 16 := by
  have hfirst : bitsVal (m.readBit a) 8 = (m.readByte a).toNat := by simpa using bitsVal_readBit m a 0 (k := 8) le_rfl
  have hsecond : bitsVal (fun i => m.readBit a (8 + i)) 4 = (m.readByte (a + 1)).toNat / 16 :=
    bitsVal_readBit m a 1 (by decide)
  simp only [readBits_eq, Memory.readBits, Nat.zero_add]
  rw [bitsVal_add _ 8 4, hfirst, hsecond]
  omega

theorem exec_dmxFeed (s : State) : exec .dmxFeed s = finish .dmxFeed s (feed s) := rfl

theorem pushAll_eq (bs : List Byte) (s : State) :
    pushAll bs s = setRes (bs.foldl push (beginCommand s)).emitted (bs.foldl push (beginCommand s)) := rfl

theorem frameRecord_plainFields {s : State} {k : Kind} (hkind : s.dmxCfg.kind = k) (msgid : Nat) (body : List Byte) :
    frameRecord s (plainFields msgid body) =
      ⟨.dmx, k, .frame, 0, 0, s.ctxWeek, s.ctxTow, 0, BitVec.ofNat 16 msgid, 0, body⟩ := by
  subst hkind
  rfl

/-- DMX.FEED of the RTCM 3 frame around a payload, nothing pending and room in the queue: one FRAME record. -/
theorem exec_dmxFeed_rtcmFrame {s : State} {pay : List Byte} (hkind : s.dmxCfg.kind = .rtcm3) (hpend : s.pending = [])
    (hroom : s.queue.length < Config.recqDepth) (h1 : 1 ≤ pay.length) (h2 : pay.length ≤ 1023)
    (hin : s.arg0.toNat + s.arg1.toNat ≤ Config.dmemSize)
    (hmem : s.mem.readBytes s.arg0.toNat s.arg1.toNat = rtcmFrame s.params.crc24qInit pay) :
    exec .dmxFeed s = .next { s with
      cntOk := s.cntOk + 1
      queue := s.queue ++ [⟨.dmx, .rtcm3, .frame, 0, 0, s.ctxWeek, s.ctxTow, 0, BitVec.ofNat 16
        (if pay.length = 1 then 0xFFFF else 16 * (byteAt pay 0).toNat + (byteAt pay 1).toNat / 16), 0, pay⟩]
      emitted := 1
      res := 1 } := by
  have hne : rtcmFrame s.params.crc24qInit pay ≠ [] := List.cons_ne_nil _ _
  have hpush := foldl_push_of_frame (s := beginCommand s) hpend hne
    (fun k h1k hk => hkind ▸ classify_take (rtcmFrame_shape _ h1 h2) h1k hk) (hkind ▸ classify_rtcmFrame _ h1 h2)
  rw [deliver_of_rtcm3 (s := beginCommand s) hkind rfl hroom,
    frameRecord_plainFields (s := beginCommand s) hkind] at hpush
  rw [exec_dmxFeed, feed, if_pos (inDmem_iff.2 (.inr hin)), hmem, finish_ok, pushAll_eq, hpush]
  rfl

/-- The message number of a payload is the first twelve bits of what RTCM.ENC read (R190). -/
theorem msgid_payload {s : State} (h1 : 1 ≤ s.arg1.toNat) :
    (if (payload s).length = 1 then 0xFFFF
      else 16 * (byteAt (payload s) 0).toNat + (byteAt (payload s) 1).toNat / 16) =
    if s.arg1.toNat = 1 then 0xFFFF else readBits s.mem s.arg0.toNat 0 12 := by
  rw [payload_length]
  split_ifs with hone
  · rfl
  · rw [readBits_twelve, byteAt, byteAt, payload, readBytes_getD _ _ (by omega), readBytes_getD _ _ (by omega),
      Nat.add_zero]

/-- Settles O33: the frame's beginnings wait, its last byte delivers it, and the queue takes the record. -/
theorem encodedFrameDemultiplexes : Obligations.EncodedFrameDemultiplexes := by
  intro s t hwf hkind hpend hroom h1 h2 hsrc hdst hexec
  rw [exec_rtcmEnc_of_inside h1 h2 hsrc hdst] at hexec
  obtain rfl := Host.Outcome.next.inj hexec
  have hpay := payload_length s
  have hlen : (s.arg1 + 6).toNat = (rtcmFrame s.params.crc24qInit (payload s)).length := by
    rw [rtcmFrame_length, hpay, BitVec.toNat_add]
    exact Nat.mod_eq_of_lt (show s.arg1.toNat + 6 < 2 ^ 32 by omega)
  have hin : s.arg2.toNat + (rtcmFrame s.params.crc24qInit (payload s)).length ≤ Config.dmemSize := by
    rw [rtcmFrame_length, hpay]
    omega
  refine ⟨_, exec_dmxFeed_rtcmFrame (pay := payload s) hkind hpend hroom (by omega) (by omega) ?_ ?_, hpend, rfl, ?_⟩
  · exact le_of_eq_of_le (congrArg (s.arg2.toNat + ·) hlen) hin
  · exact (congrArg (Memory.readBytes _ _) hlen).trans (readBytes_writeBytes hwf hin)
  · rw [← msgid_payload h1]
    rfl

end Sys2Proof.Proofs.FrameFeed
end

section
/-! PROOFS. GF(2^8) (O34, O35, O36): multiplication is additive in each factor, so it is determined by the powers of
`02`, where it adds the exponents; the powers of `02` are every byte but 0 (R142), which gives the inverses. -/

namespace Sys2Proof.Proofs.GfField

open Sys2Proof Sys2Proof.Machine Sys2Proof.Safety Sys2Proof.Laws Sys2Proof.Proofs.Encoding Sys2Proof.Proofs.Csr

/-! ### Additive functions and the powers of 02 -/

/-- `f` respects the addition of R141. -/
def XorLinear (f : Byte → Byte) : Prop := ∀ a b, f (a ^^^ b) = f a ^^^ f b

/-- The product by `02`: a shift, `x^8` reduced to `1D` (R141). -/
def mulTwo (a : Byte) : Byte := (a <<< 1) ^^^ (if a.getLsbD 7 then 0x1D else 0)

/-- `EXP[i]` of R142: the power `02^i`. -/
def gfExp (i : Nat) : Byte := mulTwo^[i] 1

theorem ite_xor_ite {n : Nat} (p q : Bool) (x : BitVec n) :
    (if (p ^^ q) = true then x else 0) = (if p = true then x else 0) ^^^ (if q = true then x else 0) := by
  cases p <;> cases q <;> simp

theorem xor_xor_xor_comm {n : Nat} (a b c d : BitVec n) : (a ^^^ b) ^^^ (c ^^^ d) = (a ^^^ c) ^^^ (b ^^^ d) := by
  ac_rfl

theorem xorLinear_mulTwo : XorLinear mulTwo := by
  intro a b
  rw [mulTwo, BitVec.shiftLeft_xor_distrib, BitVec.getLsbD_xor, ite_xor_ite, xor_xor_xor_comm]
  rfl

theorem xorLinear_iterate_mulTwo (i : Nat) : XorLinear mulTwo^[i] := by
  induction i with
  | zero => exact fun _ _ => rfl
  | succ i ih => exact fun a b => by simp only [Function.iterate_succ_apply', ih a b, xorLinear_mulTwo _ _]

theorem XorLinear.map_zero {f : Byte → Byte} (hf : XorLinear f) : f 0 = 0 := by
  have h := hf 0 0
  rwa [BitVec.xor_self, BitVec.xor_self] at h

/-- The terms of `a` below `x^n`. -/
def lowTerms (a : Byte) : Nat → Byte
  | 0 => 0
  | n + 1 => lowTerms a n ^^^ (if a.getLsbD n then gfExp n else 0)

theorem lowTerms_eight (a : Byte) : lowTerms a 8 = a := by
  revert a
  decide

/-- An additive function is determined by its values at `01`, `02`, `04`, ..., `80`. -/
theorem XorLinear.ext {f g : Byte → Byte} (hf : XorLinear f) (hg : XorLinear g) (h : ∀ i < 8, f (gfExp i) = g (gfExp i))
    (a : Byte) : f a = g a := by
  have hlow : ∀ n ≤ 8, f (lowTerms a n) = g (lowTerms a n) := by
    intro n hn
    induction n with
    | zero => rw [lowTerms, hf.map_zero, hg.map_zero]
    | succ n ih =>
      rw [lowTerms, hf, hg, ih (by omega)]
      split_ifs
      · rw [h n (by omega)]
      · rw [hf.map_zero, hg.map_zero]
  rw [← lowTerms_eight a]
  exact hlow 8 le_rfl

/-! ### The product is additive in each factor -/

theorem polyMul_xor_right (a b c : Byte) (k : Nat) : polyMul a (b ^^^ c) k = polyMul a b k ^^^ polyMul a c k := by
  induction k with
  | zero => exact BitVec.xor_self.symm
  | succ k ih =>
    rw [polyMul, ih, BitVec.getLsbD_xor, ite_xor_ite, xor_xor_xor_comm]
    rfl

theorem polyMul_xor_left (a b c : Byte) (k : Nat) : polyMul (a ^^^ b) c k = polyMul a c k ^^^ polyMul b c k := by
  induction k with
  | zero => exact BitVec.xor_self.symm
  | succ k ih =>
    rw [polyMul, polyMul, polyMul, ih, xor_xor_xor_comm, BitVec.setWidth_xor, BitVec.shiftLeft_xor_distrib]
    split_ifs
    · rfl
    · exact congrArg _ BitVec.xor_self.symm

theorem polyReduce_xor (p q : BitVec 16) (k : Nat) : polyReduce (p ^^^ q) k = polyReduce p k ^^^ polyReduce q k := by
  have hclear : ∀ (c : Bool) (p x : BitVec 16),
      (if c = true then p ^^^ x else p) = p ^^^ (if c = true then x else 0) := by
    intro c p x
    cases c <;> simp
  induction k generalizing p q with
  | zero => rfl
  | succ k ih => simp only [polyReduce, hclear, BitVec.getLsbD_xor, ite_xor_ite, ← ih, xor_xor_xor_comm p q]

theorem gmul_xor (a b c : Byte) : gmul a (b ^^^ c) = gmul a b ^^^ gmul a c := by
  rw [gmul, polyMul_xor_right, polyReduce_xor, BitVec.setWidth_xor]
  rfl

theorem xor_gmul (a b c : Byte) : gmul (a ^^^ b) c = gmul a c ^^^ gmul b c := by
  rw [gmul, polyMul_xor_left, polyReduce_xor, BitVec.setWidth_xor]
  rfl

/-! ### The product adds exponents -/

/-- The one computation of products: up to `x^8 · x^7`, `gmul` adds exponents. -/
theorem gmul_gfExp_of_lt : ∀ i < 9, ∀ j < 8, gmul (gfExp i) (gfExp j) = gfExp (i + j) := by
  decide


theorem gmul_gfExp_of_lt_nine {i : Nat} (hi : i < 9) (b : Byte) : gmul (gfExp i) b = mulTwo^[i] b :=
  XorLinear.ext (gmul_xor (gfExp i)) (xorLinear_iterate_mulTwo i)
    (fun j hj => (gmul_gfExp_of_lt i hi j hj).trans (Function.iterate_add_apply ..)) b

theorem one_gmul (a : Byte) : gmul 1 a = a := gmul_gfExp_of_lt_nine (i := 0) (by decide) a

theorem zero_gmul (a : Byte) : gmul 0 a = 0 := XorLinear.map_zero (f := (gmul · a)) fun b c => xor_gmul b c a

theorem two_gmul (a : Byte) : gmul 2 a = mulTwo a := gmul_gfExp_of_lt_nine (i := 1) (by decide) a

theorem gmul_mulTwo (a b : Byte) : gmul (mulTwo a) b = mulTwo (gmul a b) := by
  refine XorLinear.ext (f := fun a => gmul (mulTwo a) b) (g := fun a => mulTwo (gmul a b)) ?_ ?_ ?_ a
  · intro c d
    simp only [xorLinear_mulTwo c d, xor_gmul]
  · intro c d
    simp only [xor_gmul, xorLinear_mulTwo _ _]
  · intro i hi
    have hsucc : mulTwo (gfExp i) = gfExp (i + 1) := (Function.iterate_succ_apply' ..).symm
    simp only [hsucc, gmul_gfExp_of_lt_nine (show i + 1 < 9 by omega), gmul_gfExp_of_lt_nine (show i < 9 by omega),
      Function.iterate_succ_apply']

theorem gmul_iterate_mulTwo (i : Nat) (a b : Byte) : gmul (mulTwo^[i] a) b = mulTwo^[i] (gmul a b) := by
  induction i with
  | zero => rfl
  | succ i ih => simp only [Function.iterate_succ_apply', gmul_mulTwo, ih]

theorem gfExp_gmul (i : Nat) (b : Byte) : gmul (gfExp i) b = mulTwo^[i] b := by
  rw [gfExp, gmul_iterate_mulTwo, one_gmul]

theorem gmul_gfExp_gfExp (i j : Nat) : gmul (gfExp i) (gfExp j) = gfExp (i + j) :=
  (gfExp_gmul i _).trans (Function.iterate_add_apply ..).symm

theorem gmul_comm (a b : Byte) : gmul a b = gmul b a := by
  refine XorLinear.ext (f := (gmul · b)) (g := gmul b) (fun c d => xor_gmul c d b) (gmul_xor b) (fun i _ => ?_) a
  refine XorLinear.ext (f := gmul (gfExp i)) (g := (gmul · (gfExp i))) (gmul_xor _) (fun c d => xor_gmul c d _)
    (fun j _ => ?_) b
  simp only [gmul_gfExp_gfExp, Nat.add_comm]

theorem gmul_assoc (a b c : Byte) : gmul (gmul a b) c = gmul a (gmul b c) := by
  refine XorLinear.ext (f := fun a => gmul (gmul a b) c) (g := fun a => gmul a (gmul b c)) ?_ ?_ (fun i _ => ?_) a
  · intro d e
    simp only [xor_gmul]
  · exact fun d e => xor_gmul d e _
  · simp only [gfExp_gmul, gmul_iterate_mulTwo]

theorem gmul_zero (a : Byte) : gmul a 0 = 0 := by rw [gmul_comm, zero_gmul]

theorem gmul_one (a : Byte) : gmul a 1 = a := by rw [gmul_comm, one_gmul]

/-! ### Every byte but 0 is a power of 02 (R142) -/

theorem gfExp_add_of_eq {i j : Nat} {a b c : Byte} (hi : gfExp i = a) (hj : gfExp j = b) (h : gmul a b = c) :
    gfExp (i + j) = c := by
  rw [← gmul_gfExp_gfExp, hi, hj, h]

theorem gfExp_seventeen : gfExp 17 = 0x98 := by decide

theorem gfExp_thirtyFour : gfExp 34 = 0x4E := gfExp_add_of_eq gfExp_seventeen gfExp_seventeen (by decide)

theorem gfExp_fiftyOne : gfExp 51 = 0x0A := gfExp_add_of_eq gfExp_seventeen gfExp_thirtyFour (by decide)

theorem gfExp_eightyFive : gfExp 85 = 0xD6 := gfExp_add_of_eq gfExp_thirtyFour gfExp_fiftyOne (by decide)

theorem gfExp_oneHundredSeventy : gfExp 170 = 0xD7 := gfExp_add_of_eq gfExp_eightyFive gfExp_eightyFive (by decide)

theorem gfExp_period : gfExp 255 = 1 := gfExp_add_of_eq gfExp_eightyFive gfExp_oneHundredSeventy (by decide)

theorem mulTwo_period : Function.IsPeriodicPt mulTwo 255 1 := gfExp_period

/-- `02` is primitive: its order divides `255 = 3 · 5 · 17` and none of `85`, `51` and `15`. -/
theorem minimalPeriod_mulTwo : Function.minimalPeriod mulTwo 1 = 255 := by
  have hmaximal : ∀ d ∈ Nat.divisors 255, d ≠ 255 → d ∣ 85 ∨ d ∣ 51 ∨ d ∣ 15 := by decide
  have hdvd := mulTwo_period.minimalPeriod_dvd
  have hper : ∀ n, Function.minimalPeriod mulTwo 1 ∣ n → gfExp n = 1 := fun n hn =>
    (Function.isPeriodicPt_minimalPeriod mulTwo 1).trans_dvd hn
  by_contra hne
  rcases hmaximal _ (Nat.mem_divisors.2 ⟨hdvd, by decide⟩) hne with h | h | h
  · exact absurd (gfExp_eightyFive.symm.trans (hper 85 h)) (by decide)
  · exact absurd (gfExp_fiftyOne.symm.trans (hper 51 h)) (by decide)
  · exact absurd (hper 15 h) (by decide)

theorem gfExp_mul_period (i : Nat) : gfExp (255 * i) = 1 := mulTwo_period.mul_const i

theorem gfExp_ne_zero (i : Nat) : gfExp i ≠ 0 := by
  intro h
  have hone := gmul_gfExp_gfExp i (254 * i)
  rw [h, zero_gmul, show i + 254 * i = 255 * i by ring, gfExp_mul_period] at hone
  exact absurd hone (by decide)

theorem exists_gfExp {a : Byte} (ha : a ≠ 0) : ∃ i, gfExp i = a := by
  have hinj : Set.InjOn gfExp (Finset.range 255) := by
    have h := Function.iterate_injOn_Iio_minimalPeriod (f := mulTwo) (x := 1)
    rwa [minimalPeriod_mulTwo, ← Finset.coe_range] at h
  have hall : (Finset.range 255).image gfExp = Finset.univ.erase 0 := by
    refine Finset.eq_of_subset_of_card_le (fun b hb => ?_) (le_of_eq ?_)
    · obtain ⟨i, -, rfl⟩ := Finset.mem_image.1 hb
      exact Finset.mem_erase.2 ⟨gfExp_ne_zero i, Finset.mem_univ _⟩
    · rw [Finset.card_image_of_injOn hinj, Finset.card_erase_of_mem (Finset.mem_univ _), Finset.card_univ,
        ← FinEnum.card_eq_fintypeCard, FinEnum.card_bitVec, Finset.card_range]
      rfl
  obtain ⟨i, -, hi⟩ := Finset.mem_image.1 (hall ▸ Finset.mem_erase.2 ⟨ha, Finset.mem_univ a⟩)
  exact ⟨i, hi⟩

/-! ### Inverses (R143) -/

theorem squaresProduct_gfExp (i k : Nat) : squaresProduct (gfExp i) k = gfExp ((2 ^ (k + 1) - 2) * i) := by
  induction k generalizing i with
  | zero => simp [squaresProduct, gfExp]
  | succ k ih =>
    have hsum : 2 ^ (k + 1 + 1) - 2 = 2 + 2 * (2 ^ (k + 1) - 2) := by
      have := Nat.one_le_two_pow (n := k)
      omega
    rw [squaresProduct, gmul_gfExp_gfExp, ih, gmul_gfExp_gfExp, hsum]
    congr 1
    ring

/-- `ginv` is `a^254`, and `a^255 = 1`. -/
theorem gmul_ginv {a : Byte} (ha : a ≠ 0) : gmul a (ginv a) = 1 := by
  obtain ⟨i, rfl⟩ := exists_gfExp ha
  rw [ginv, squaresProduct_gfExp, gmul_gfExp_gfExp, show i + (2 ^ (7 + 1) - 2) * i = 255 * i by ring, gfExp_mul_period]

theorem eq_of_gmul_eq_one {a y z : Byte} (hy : gmul a y = 1) (hz : gmul a z = 1) : z = y := by
  calc z = gmul (gmul a y) z := by rw [hy, one_gmul]
    _ = gmul (gmul a z) y := by rw [gmul_assoc, gmul_comm y z, gmul_assoc]
    _ = y := by rw [hz, one_gmul]

/-! ### The obligations -/

/-- Settles O34: each law is checked on powers of `02` and carried over by additivity. -/
theorem gfProductIsFieldProduct : Obligations.GfProductIsFieldProduct := fun a b c =>
  ⟨gmul_comm a b, gmul_assoc a b c, gmul_xor a b c, one_gmul a, zero_gmul a, fun ha => ⟨ginv a, gmul_ginv ha⟩,
    two_gmul a⟩

theorem exec_gfMul (s : State) : exec .gfMul s =
    .next { s with res := BitVec.ofNat 64 (gmul (s.arg0.extractLsb' 0 8) (s.arg1.extractLsb' 0 8)).toNat } := rfl

theorem exec_gfInv (s : State) : exec .gfInv s = finish .gfInv s (invert s) := rfl

/-- Settles O35: GF.MUL has no check. -/
theorem gfMulWritesProduct : Obligations.GfMulWritesProduct := by
  refine ⟨encodedAs_wordN (op := 0x30) (by decide) rfl rfl, fun s => ?_⟩
  rw [exec_gfMul, lowBits_eq, lowBits_eq]

theorem lowByte_eq_zero_iff (w : Word) : w.extractLsb' 0 8 = 0 ↔ w.toNat % 256 = 0 := by
  rw [lowBits_eq]
  simp [BitVec.toNat_eq]

/-- Settles O36: `a^254` is an inverse, and in a field there is one only. -/
theorem gfInvWritesUniqueInverse : Obligations.GfInvWritesUniqueInverse := by
  refine ⟨encodedAs_wordN (op := 0x31) (by decide) rfl rfl, fun s => ⟨fun hne => ?_, fun hz => ?_⟩⟩
  · have ha := mt (lowByte_eq_zero_iff s.arg0).1 hne
    have hexec : exec .gfInv s = .next { s with res := BitVec.ofNat 64 (ginv (s.arg0.extractLsb' 0 8)).toNat } := by
      rw [exec_gfInv, invert, if_neg ha]
      rfl
    have hinv := gmul_ginv ha
    rw [← lowBits_eq]
    exact ⟨_, hinv, fun z hz => eq_of_gmul_eq_one hinv hz, hexec⟩
  · rw [exec_gfInv, invert, if_pos ((lowByte_eq_zero_iff s.arg0).2 hz), finish_error]

end Sys2Proof.Proofs.GfField
end

section
/-! PROOFS. The erasure decoder (O37, O38): an elimination step neither gains nor loses a solution, whatever the right
sides are; with right sides 0 this decides nonsingularity, with a byte row of the pages it gives the cleartext. -/

namespace Sys2Proof.Proofs.ErasureDecoder

open Sys2Proof Sys2Proof.Machine Sys2Proof.Safety Sys2Proof.Proofs.GfField

/-! ### Sums over GF(2^8) -/

theorem zero_xor (a : Byte) : 0 ^^^ a = a := BitVec.zero_xor

theorem xor_zero (a : Byte) : a ^^^ 0 = a := BitVec.xor_zero

theorem xor_self (a : Byte) : a ^^^ a = 0 := BitVec.xor_self

theorem foldl_xor (a : Byte) (bs : List Byte) : bs.foldl (· ^^^ ·) a = a ^^^ xorSum bs := by
  induction bs generalizing a with
  | nil => exact (xor_zero a).symm
  | cons b bs ih => rw [xorSum, List.foldl_cons, List.foldl_cons, ih, ih, zero_xor, BitVec.xor_assoc]

theorem xorSum_nil : xorSum [] = 0 := rfl

theorem xorSum_cons (b : Byte) (bs : List Byte) : xorSum (b :: bs) = b ^^^ xorSum bs := by
  rw [xorSum, List.foldl_cons, foldl_xor, zero_xor]

theorem xorSum_append (as bs : List Byte) : xorSum (as ++ bs) = xorSum as ^^^ xorSum bs := by
  rw [xorSum, List.foldl_append, foldl_xor]
  rfl

/-- The left side of an equation at the symbols `x` of one byte row. -/
def dot (coef x : List Byte) : Byte := xorSum (List.zipWith gmul x coef)

theorem dot_nil (x : List Byte) : dot [] x = 0 := by rw [dot, List.zipWith_nil_right, xorSum_nil]

theorem dot_nil_right (coef : List Byte) : dot coef [] = 0 := rfl

theorem dot_cons (c x : Byte) (cs xs : List Byte) : dot (c :: cs) (x :: xs) = gmul x c ^^^ dot cs xs := by
  rw [dot, List.zipWith_cons_cons, xorSum_cons, dot]

theorem dot_scale (k : Byte) (coef x : List Byte) : dot (scale k coef) x = gmul (dot coef x) k := by
  induction coef generalizing x with
  | nil => rw [scale, List.map_nil, dot_nil, zero_gmul]
  | cons c cs ih =>
    cases x with
    | nil => rw [dot_nil_right, dot_nil_right, zero_gmul]
    | cons x xs =>
      have hcs : dot (cs.map (gmul · k)) xs = gmul (dot cs xs) k := ih xs
      rw [scale, List.map_cons, dot_cons, dot_cons, xor_gmul, gmul_assoc, hcs]

theorem dot_addVec {u v : List Byte} (h : u.length = v.length) (x : List Byte) :
    dot (addVec u v) x = dot u x ^^^ dot v x := by
  induction x generalizing u v with
  | nil => exact (xor_self 0).symm
  | cons x xs ih =>
    cases u with
    | nil =>
      obtain rfl := List.length_eq_zero_iff.1 h.symm
      rw [addVec, List.zipWith_nil_left, dot_nil]
      exact (xor_self 0).symm
    | cons a u =>
      cases v with
      | nil => simp at h
      | cons b v =>
        have htail : dot (List.zipWith (· ^^^ ·) u v) xs = dot u xs ^^^ dot v xs := ih (Nat.succ.inj h)
        rw [addVec, List.zipWith_cons_cons, dot_cons, dot_cons, dot_cons, gmul_xor, htail, xor_xor_xor_comm]

theorem dot_of_zero_symbols {x : List Byte} (hx : ∀ b ∈ x, b = 0) (coef : List Byte) : dot coef x = 0 := by
  induction x generalizing coef with
  | nil => rfl
  | cons b x ih =>
    obtain ⟨hb, hx⟩ := List.forall_mem_cons.1 hx
    cases coef with
    | nil => exact dot_nil _
    | cons c cs => rw [dot_cons, hb, zero_gmul, zero_xor, ih hx]

/-! ### Vectors of byte rows -/

theorem scale_length (k : Byte) (v : List Byte) : (scale k v).length = v.length := List.length_map _

theorem addVec_length {u v : List Byte} (h : u.length = v.length) : (addVec u v).length = u.length := by
  simp [addVec, h]

theorem scale_getD (k : Byte) (v : List Byte) (r : Nat) : (scale k v).getD r 0 = gmul (v.getD r 0) k := by
  have h := List.getD_map (l := v) (d := 0) (n := r) (gmul · k)
  rwa [zero_gmul] at h

theorem addVec_getD {u v : List Byte} (h : u.length = v.length) (r : Nat) :
    (addVec u v).getD r 0 = u.getD r 0 ^^^ v.getD r 0 := by
  by_cases hr : r < u.length
  · simp [addVec, List.getD, hr, h ▸ hr]
  · have hv : v.length ≤ r := by omega
    simp [addVec, List.getD, not_lt.1 hr, hv]

theorem foldl_addVec {n : Nat} {vs : List (List Byte)} (hvs : ∀ v ∈ vs, v.length = n) {u : List Byte}
    (hu : u.length = n) : (vs.foldl addVec u).length = n ∧
      ∀ r, (vs.foldl addVec u).getD r 0 = u.getD r 0 ^^^ xorSum (vs.map (·.getD r 0)) := by
  induction vs generalizing u with
  | nil => exact ⟨hu, fun r => (xor_zero _).symm⟩
  | cons v vs ih =>
    obtain ⟨hv, hvs⟩ := List.forall_mem_cons.1 hvs
    obtain ⟨hlen, hget⟩ := ih hvs ((addVec_length (hu.trans hv.symm)).trans hu)
    refine ⟨hlen, fun r => ?_⟩
    rw [List.foldl_cons, hget, addVec_getD (hu.trans hv.symm), List.map_cons, xorSum_cons, BitVec.xor_assoc]

/-! ### Systems of equations -/

/-- `es` are equations in `n` unknowns, for the 53 byte rows of a page. -/
def Shaped (n : Nat) (es : List Equation) : Prop := ∀ e ∈ es, e.coef.length = n ∧ e.rhs.length = 53

/-- The symbols `x` of one byte row solve the equations, with the right sides `b`. -/
def Solves (b : Equation → Byte) (es : List Equation) (x : List Byte) : Prop := ∀ e ∈ es, dot e.coef x = b e

/-- The homogeneous system has no solution but 0. -/
def Regular (n : Nat) (es : List Equation) : Prop :=
  ∀ x : List Byte, x.length = n → Solves (fun _ => 0) es x → ∀ b ∈ x, b = 0

/-- Right sides that the row operations of `solve` treat as they treat the left sides. -/
structure RowCompatible (b : Equation → Byte) : Prop where
  scale : ∀ k e, b (Equation.scale k e) = gmul (b e) k
  eliminate : ∀ p e : Equation, p.rhs.length = e.rhs.length → b (p.eliminate e) = b e ^^^ gmul (b p) e.head

theorem rowCompatible_zero : RowCompatible fun _ => 0 where
  scale := fun k _ => (zero_gmul k).symm
  eliminate := fun _ e _ => by rw [zero_gmul, zero_xor]

/-- The right sides of byte row `r`. -/
def rhsAt (r : Nat) (e : Equation) : Byte := e.rhs.getD r 0

theorem rowCompatible_rhsAt (r : Nat) : RowCompatible (rhsAt r) where
  scale := fun k e => scale_getD k e.rhs r
  eliminate := fun p e h => by
    have hlen : e.rhs.length = (scale e.head p.rhs).length := h.symm.trans (scale_length _ _).symm
    rw [rhsAt, Equation.eliminate, addVec_getD hlen, scale_getD, rhsAt, rhsAt]

theorem coef_eq_head_cons {e : Equation} {n : Nat} (h : e.coef.length = n + 1) : e.coef = e.head :: e.coef.tail := by
  unfold Equation.head
  cases hc : e.coef with
  | nil => simp [hc] at h
  | cons c cs => rfl

/-! ### The pivot -/

theorem head_eq_zero_of_no_pivot {es : List Equation} (h : takePivot es = none) : ∀ e ∈ es, e.head = 0 := by
  induction es with
  | nil => simp
  | cons e es ih =>
    simp only [takePivot] at h
    split_ifs at h with he
    refine List.forall_mem_cons.2 ⟨not_not.1 he, ih ?_⟩
    cases hes : takePivot es with
    | none => rfl
    | some q => simp [hes] at h

theorem takePivot_some {es rest : List Equation} {p : Equation} (h : takePivot es = some (p, rest)) :
    p.head ≠ 0 ∧ es.Perm (p :: rest) := by
  induction es generalizing rest with
  | nil => simp [takePivot] at h
  | cons e es ih =>
    simp only [takePivot] at h
    split_ifs at h with he
    · simp only [Option.some.injEq, Prod.mk.injEq] at h
      obtain ⟨rfl, rfl⟩ := h
      exact ⟨he, .refl _⟩
    · cases hes : takePivot es with
      | none => simp [hes] at h
      | some q =>
        simp only [hes, Option.some.injEq, Prod.mk.injEq] at h
        obtain ⟨rfl, rfl⟩ := h
        obtain ⟨hp, hperm⟩ := ih hes
        exact ⟨hp, (hperm.cons e).trans (.swap _ _ _)⟩

/-- The pivot divided by its first coefficient. -/
def normalize (p : Equation) : Equation := p.scale (ginv p.head)

/-- The equations that an elimination step leaves. -/
def reduce (p : Equation) (rest : List Equation) : List Equation := rest.map (normalize p).eliminate

theorem solve_of_no_pivot {n : Nat} {es : List Equation} (h : takePivot es = none) : solve (n + 1) es = none := by
  simp only [solve, h]

theorem solve_of_pivot {n : Nat} {es rest : List Equation} {p : Equation} (h : takePivot es = some (p, rest)) :
    solve (n + 1) es =
      (solve n (reduce p rest)).map fun xs => backSubstitute (normalize p) xs :: xs := by
  simp only [solve, h, reduce, normalize]
  cases solve n (rest.map (p.scale (ginv p.head)).eliminate) <;> rfl

theorem normalize_coef {p : Equation} {n : Nat} (hn : p.coef.length = n + 1) (hp : p.head ≠ 0) :
    (normalize p).coef = 1 :: (normalize p).coef.tail := by
  rw [normalize, Equation.scale, scale, coef_eq_head_cons hn, List.map_cons, gmul_ginv hp, List.tail_cons]

theorem normalize_coef_tail_length {p : Equation} {n : Nat} (hn : p.coef.length = n + 1) :
    (normalize p).coef.tail.length = n := by
  rw [List.length_tail, normalize, Equation.scale, scale_length, hn, Nat.add_sub_cancel]

theorem eliminate_coef_length {p e : Equation} {n : Nat} (hp : p.coef.length = n + 1) (he : e.coef.length = n + 1) :
    (p.eliminate e).coef.length = n := by
  simp [Equation.eliminate, addVec, scale, hp, he]

/-- What an elimination does to the left side: the unknown `x` it takes out may have any value. -/
theorem dot_eliminate {p e : Equation} {n : Nat} {cs : List Byte} (hp : p.coef = 1 :: cs) (hcs : cs.length = n)
    (he : e.coef.length = n + 1) (x : Byte) (xs : List Byte) :
    dot (p.eliminate e).coef xs = dot e.coef (x :: xs) ^^^ gmul (dot p.coef (x :: xs)) e.head := by
  have hlen : e.coef.tail.length = (scale e.head cs).length := by rw [scale_length, List.length_tail, he, hcs]; rfl
  have hcoef : (p.eliminate e).coef = addVec e.coef.tail (scale e.head cs) := by
    rw [Equation.eliminate, hp, coef_eq_head_cons he]
    rfl
  rw [hcoef, dot_addVec hlen, dot_scale, coef_eq_head_cons he, dot_cons, hp, dot_cons, gmul_one, xor_gmul,
    List.tail_cons, xor_xor_xor_comm, xor_self, zero_xor]

theorem gmul_left_inj {k : Byte} (hk : k ≠ 0) (a b : Byte) : gmul a (ginv k) = gmul b (ginv k) ↔ a = b := by
  refine ⟨fun h => ?_, fun h => h ▸ rfl⟩
  have h := congrArg (gmul · k) h
  simpa only [gmul_assoc, gmul_comm (ginv k) k, gmul_ginv hk, gmul_one] using h

section
variable {n : Nat} {es rest : List Equation} {p : Equation}

theorem shaped_pivot (hs : Shaped (n + 1) es) (ht : takePivot es = some (p, rest)) :
    p.coef.length = n + 1 ∧ p.rhs.length = 53 ∧ ∀ e ∈ rest, e.coef.length = n + 1 ∧ e.rhs.length = 53 := by
  obtain ⟨-, hperm⟩ := takePivot_some ht
  obtain ⟨⟨hc, hr⟩, hrest⟩ := List.forall_mem_cons.1 fun e he => hs e (hperm.mem_iff.2 he)
  exact ⟨hc, hr, hrest⟩

theorem shaped_reduce (hs : Shaped (n + 1) es) (ht : takePivot es = some (p, rest)) : Shaped n (reduce p rest) := by
  obtain ⟨hc, hr, hrest⟩ := shaped_pivot hs ht
  refine List.forall_mem_map.2 fun e he => ?_
  obtain ⟨hec, her⟩ := hrest e he
  exact ⟨eliminate_coef_length ((scale_length _ _).trans hc) hec, by simp [Equation.eliminate, normalize,
    Equation.scale, addVec, scale, hr, her]⟩

theorem reduce_length (hl : es.length = n + 1) (ht : takePivot es = some (p, rest)) : (reduce p rest).length = n := by
  obtain ⟨-, hperm⟩ := takePivot_some ht
  have := hperm.length_eq
  rw [List.length_cons, hl] at this
  rw [reduce, List.length_map]
  omega

/-- An elimination step neither gains nor loses a solution: the pivot gives the first unknown, the reduced equations
the others. -/
theorem solves_cons_iff {b : Equation → Byte} (hb : RowCompatible b) (hs : Shaped (n + 1) es)
    (ht : takePivot es = some (p, rest)) (x : Byte) (xs : List Byte) :
    Solves b es (x :: xs) ↔
      x ^^^ dot (normalize p).coef.tail xs = b (normalize p) ∧ Solves b (reduce p rest) xs := by
  obtain ⟨hp, hperm⟩ := takePivot_some ht
  obtain ⟨hpc, hpr, hrest⟩ := shaped_pivot hs ht
  have hone := normalize_coef hpc hp
  have hfirst : dot (normalize p).coef (x :: xs) = x ^^^ dot (normalize p).coef.tail xs := by
    rw [hone, dot_cons, gmul_one, List.tail_cons]
  have hpivot : dot p.coef (x :: xs) = b p ↔ dot (normalize p).coef (x :: xs) = b (normalize p) := by
    rw [normalize, Equation.scale, dot_scale, ← gmul_left_inj hp, ← hb.scale]
    rfl
  have hall : Solves b es (x :: xs) ↔ dot p.coef (x :: xs) = b p ∧ ∀ e ∈ rest, dot e.coef (x :: xs) = b e := by
    refine Iff.trans ?_ (List.forall_mem_cons (p := fun e => dot e.coef (x :: xs) = b e))
    exact forall_congr' fun e => by rw [hperm.mem_iff]
  rw [hall, hpivot, ← hfirst, Solves, reduce, List.forall_mem_map]
  refine and_congr_right fun hv => forall₂_congr fun e he => ?_
  obtain ⟨hec, her⟩ := hrest e he
  have hlen : (normalize p).rhs.length = e.rhs.length := (scale_length _ _).trans (hpr.trans her.symm)
  rw [dot_eliminate hone (normalize_coef_tail_length hpc) hec x xs, hb.eliminate _ _ hlen, hv, BitVec.xor_left_inj]

theorem regular_reduce_iff (hs : Shaped (n + 1) es) (ht : takePivot es = some (p, rest)) :
    Regular n (reduce p rest) ↔ Regular (n + 1) es := by
  constructor
  · intro h x hx hsol
    obtain ⟨x, xs, rfl⟩ := List.exists_cons_of_length_eq_add_one hx
    obtain ⟨hfirst, hrest⟩ := (solves_cons_iff rowCompatible_zero hs ht x xs).1 hsol
    have hxs := h xs (Nat.succ.inj hx) hrest
    rw [dot_of_zero_symbols hxs, xor_zero] at hfirst
    exact List.forall_mem_cons.2 ⟨hfirst, hxs⟩
  · intro h xs hx hsol
    refine (List.forall_mem_cons.1 (h (dot (normalize p).coef.tail xs :: xs) (congrArg Nat.succ hx) ?_)).2
    exact (solves_cons_iff rowCompatible_zero hs ht _ xs).2 ⟨xor_self _, hsol⟩

end

/-! ### The solver -/

theorem not_regular_of_no_pivot {n : Nat} {es : List Equation} (hs : Shaped (n + 1) es) (ht : takePivot es = none) :
    ¬ Regular (n + 1) es := by
  intro h
  have hsol : Solves (fun _ => 0) es (1 :: List.replicate n 0) := fun e he => by
    rw [coef_eq_head_cons (hs e he).1, head_eq_zero_of_no_pivot ht e he, dot_cons, gmul_zero, zero_xor]
    exact dot_of_zero_symbols (fun b hb => List.eq_of_mem_replicate hb) _
  exact absurd (h _ (by simp) hsol 1 (by simp)) (by decide)

/-- Elimination finds a pivot for every unknown exactly when the matrix is nonsingular. -/
theorem solve_isSome_iff {n : Nat} {es : List Equation} (hs : Shaped n es) :
    (∃ xs, solve n es = some xs) ↔ Regular n es := by
  induction n generalizing es with
  | zero => exact iff_of_true ⟨[], rfl⟩ fun x hx _ => by simp [List.length_eq_zero_iff.1 hx]
  | succ n ih =>
    cases ht : takePivot es with
    | none => exact iff_of_false (by simp [solve_of_no_pivot ht]) (not_regular_of_no_pivot hs ht)
    | some q =>
      obtain ⟨p, rest⟩ := q
      rw [← regular_reduce_iff hs ht, ← ih (shaped_reduce hs ht), solve_of_pivot ht]
      simp

theorem length_of_mem_zipWith_scale {n : Nat} {xs : List (List Byte)} (hxs : ∀ x ∈ xs, x.length = n) (cs : List Byte) :
    ∀ v ∈ List.zipWith scale cs xs, v.length = n := by
  induction xs generalizing cs with
  | nil => simp
  | cons x xs ih =>
    obtain ⟨hx, hxs⟩ := List.forall_mem_cons.1 hxs
    cases cs with
    | nil => simp
    | cons c cs => exact List.forall_mem_cons.2 ⟨(scale_length c x).trans hx, ih hxs cs⟩

theorem map_getD_zipWith_scale (cs : List Byte) (xs : List (List Byte)) (r : Nat) :
    (List.zipWith scale cs xs).map (·.getD r 0) = List.zipWith gmul (xs.map (·.getD r 0)) cs := by
  rw [List.map_zipWith, List.zipWith_comm, List.zipWith_map_left]
  simp only [scale_getD]

theorem backSubstitute_spec {p : Equation} (hp : p.rhs.length = 53) {xs : List (List Byte)}
    (hxs : ∀ x ∈ xs, x.length = 53) : (backSubstitute p xs).length = 53 ∧
      ∀ r, (backSubstitute p xs).getD r 0 = rhsAt r p ^^^ dot p.coef.tail (xs.map (·.getD r 0)) := by
  obtain ⟨hlen, hget⟩ := foldl_addVec (length_of_mem_zipWith_scale hxs p.coef.tail) hp
  exact ⟨hlen, fun r => by rw [backSubstitute, hget, map_getD_zipWith_scale, rhsAt, dot]⟩

/-- What the solver gives solves the system, for every byte row. -/
theorem solve_solves {n : Nat} {es : List Equation} (hs : Shaped n es) (hl : es.length = n) {xs : List (List Byte)}
    (h : solve n es = some xs) : xs.length = n ∧ (∀ x ∈ xs, x.length = 53) ∧
      ∀ r, Solves (rhsAt r) es (xs.map (·.getD r 0)) := by
  induction n generalizing es xs with
  | zero =>
    obtain rfl := List.length_eq_zero_iff.1 hl
    obtain rfl := Option.some.inj h
    exact ⟨rfl, by simp, fun r => by simp [Solves]⟩
  | succ n ih =>
    cases ht : takePivot es with
    | none => simp [solve_of_no_pivot ht] at h
    | some q =>
      obtain ⟨p, rest⟩ := q
      rw [solve_of_pivot ht, Option.map_eq_some_iff] at h
      obtain ⟨ys, hys, rfl⟩ := h
      obtain ⟨hlen, h53, hsol⟩ := ih (shaped_reduce hs ht) (reduce_length hl ht) hys
      obtain ⟨-, hpr, -⟩ := shaped_pivot hs ht
      obtain ⟨hblen, hbget⟩ := backSubstitute_spec (p := normalize p) ((scale_length _ _).trans hpr) h53
      refine ⟨congrArg Nat.succ hlen, List.forall_mem_cons.2 ⟨hblen, h53⟩, fun r => ?_⟩
      rw [List.map_cons, solves_cons_iff (rowCompatible_rhsAt r) hs ht, hbget, BitVec.xor_assoc, xor_self,
        xor_zero]
      exact ⟨rfl, hsol r⟩

/-- A square system with an equation that has no unknowns is singular. -/
theorem solve_eq_none_of_zero {n : Nat} {es : List Equation} (hs : Shaped n es) (hl : es.length = n) {e : Equation}
    (he : e ∈ es) (hzero : ∀ x : List Byte, x.length = n → dot e.coef x = 0) : solve n es = none := by
  induction n generalizing es e with
  | zero => simp [List.length_eq_zero_iff.1 hl] at he
  | succ n ih =>
    cases ht : takePivot es with
    | none => exact solve_of_no_pivot ht
    | some q =>
      obtain ⟨p, rest⟩ := q
      obtain ⟨hp, hperm⟩ := takePivot_some ht
      obtain ⟨hpc, -, hrest⟩ := shaped_pivot hs ht
      have hhead : e.head = 0 := by
        have h := hzero (1 :: List.replicate n 0) (by simp)
        rwa [coef_eq_head_cons (hs e he).1, dot_cons, one_gmul,
          dot_of_zero_symbols fun b hb => List.eq_of_mem_replicate hb, xor_zero] at h
      have hmem : e ∈ rest := (List.mem_cons.1 (hperm.mem_iff.1 he)).resolve_left fun h => hp (h ▸ hhead)
      have hstill : ∀ xs : List Byte, xs.length = n → dot ((normalize p).eliminate e).coef xs = 0 := fun xs hxs => by
        rw [dot_eliminate (normalize_coef hpc hp) (normalize_coef_tail_length hpc) (hs e he).1 0, hhead, gmul_zero,
          xor_zero]
        exact hzero (0 :: xs) (congrArg Nat.succ hxs)
      rw [solve_of_pivot ht, ih (shaped_reduce hs ht) (reduce_length hl ht) (List.mem_map_of_mem hmem) hstill]
      rfl

/-! ### The equations of the pages (R147) -/

section
variable {p : Config.Params} {ms : Nat} {pages : List (Nat × List Byte)}

theorem dot_pageEquation (q : Nat × List Byte) (m : Nat → Byte) :
    dot (pageEquation p ms q).coef ((List.range ms).map m) = pageSymbol p ms m q.1 := by
  rw [dot, pageEquation, List.zipWith_map, List.zipWith_self]
  rfl

theorem shaped_pageEquations (h53 : ∀ q ∈ pages, q.2.length = 53) : Shaped ms (pages.map (pageEquation p ms)) :=
  List.forall_mem_map.2 fun q hq => ⟨by simp [pageEquation], h53 q hq⟩

theorem solves_pageEquations_iff (b : Equation → Byte) (m : Nat → Byte) :
    Solves b (pages.map (pageEquation p ms)) ((List.range ms).map m) ↔
      ∀ q ∈ pages, pageSymbol p ms m q.1 = b (pageEquation p ms q) := by
  simp only [Solves, List.forall_mem_map, dot_pageEquation]

theorem map_getD_range {α : Type} {n : Nat} {x : List α} (hx : x.length = n) (d : α) :
    (List.range n).map (x.getD · d) = x := by
  subst hx
  exact List.ext_getElem (by simp) fun i _ h => by simp [h]

theorem nonsingular_iff_regular :
    Nonsingular p ms (pages.map (·.1)) ↔ Regular ms (pages.map (pageEquation p ms)) := by
  have hsol : ∀ m, (∀ pid ∈ pages.map (·.1), pageSymbol p ms m pid = 0) ↔
      Solves (fun _ => 0) (pages.map (pageEquation p ms)) ((List.range ms).map m) := fun m => by
    rw [solves_pageEquations_iff, List.forall_mem_map]
  constructor
  · rintro h x hl hx b hb
    rw [← map_getD_range hl 0, ← hsol] at hx
    obtain ⟨i, hi, rfl⟩ := List.getElem_of_mem hb
    simpa [hi] using h _ hx i (hl ▸ hi)
  · intro h m hm i hi
    exact h _ (by simp) ((hsol m).1 hm) (m i) (List.mem_map_of_mem (List.mem_range.2 hi))

theorem hasSolve_isSome_iff (h53 : ∀ q ∈ pages, q.2.length = 53) :
    (∃ x, hasSolve p ms pages = some x) ↔ Nonsingular p ms (pages.map (·.1)) := by
  rw [nonsingular_iff_regular, ← solve_isSome_iff (shaped_pageEquations h53)]
  simp [hasSolve]

/-- The cleartext as one 53-byte block per symbol, and the equations it solves. -/
theorem hasSolve_spec (hl : pages.length = ms) (h53 : ∀ q ∈ pages, q.2.length = 53) {x : List Byte}
    (h : hasSolve p ms pages = some x) : ∃ xs : List (List Byte), x = xs.flatten ∧ xs.length = ms ∧
      (∀ y ∈ xs, y.length = 53) ∧
      ∀ q ∈ pages, ∀ r, pageSymbol p ms (fun i => (xs.getD i []).getD r 0) q.1 = q.2.getD r 0 := by
  obtain ⟨xs, hxs, rfl⟩ := Option.map_eq_some_iff.1 h
  obtain ⟨hlen, hx53, hsol⟩ := solve_solves (shaped_pageEquations h53) ((List.length_map _).trans hl) hxs
  refine ⟨xs, rfl, hlen, hx53, fun q hq r => ?_⟩
  have hrow : xs.map (·.getD r 0) = (List.range ms).map fun i => (xs.getD i []).getD r 0 := by
    conv_lhs => rw [← map_getD_range hlen []]
    rw [List.map_map]
    rfl
  have hr := hsol r
  rw [hrow, solves_pageEquations_iff] at hr
  exact hr q hq

end

/-! ### The cleartext as bytes -/

theorem length_flatten_of_blocks {α : Type} {n : Nat} {xs : List (List α)} (h : ∀ y ∈ xs, y.length = n) :
    xs.flatten.length = n * xs.length := by
  rw [List.length_flatten, List.map_congr_left h, List.map_const', List.sum_replicate, smul_eq_mul, Nat.mul_comm]

theorem getD_flatten_of_blocks {α : Type} {n : Nat} {xs : List (List α)} (h : ∀ y ∈ xs, y.length = n) {i r : Nat}
    (hr : r < n) (d : α) : xs.flatten.getD (i * n + r) d = (xs.getD i []).getD r d := by
  induction xs generalizing i with
  | nil => simp
  | cons y xs ih =>
    obtain ⟨hy, hxs⟩ := List.forall_mem_cons.1 h
    cases i with
    | zero => simp [List.getD, List.getElem?_append, hy, hr]
    | succ i =>
      have hidx : (i + 1) * n + r = y.length + (i * n + r) := by rw [hy]; ring
      rw [List.flatten_cons, hidx, List.getD_append_right _ _ _ _ (Nat.le_add_right _ _), Nat.add_sub_cancel_left,
        ih hxs, List.getD_cons_succ]

/-- Settles O37: the solver's two facts, `solve_isSome_iff` and `solve_solves`, read at the pages' equations. -/
theorem hasSolveInvertsNonsingularSystems : Obligations.HasSolveInvertsNonsingularSystems := by
  intro p ms pages hl h53
  refine ⟨hasSolve_isSome_iff h53, fun x hx => ?_⟩
  obtain ⟨xs, rfl, rfl, hx53, hsol⟩ := hasSolve_spec hl h53 hx
  refine ⟨length_flatten_of_blocks hx53, fun q hq r hr => ?_⟩
  simp only [getD_flatten_of_blocks hx53 hr]
  exact hsol q hq r

/-! ### Systematic pages (R148) -/

theorem hasG_systematic (p : Config.Params) (i : Nat) {j : Nat} (hj : j < 32) :
    hasG p i j = if i = j then 1 else 0 := if_pos hj

/-- In a systematic column only symbol `i` has a coefficient. -/
theorem xorSum_systematic (p : Config.Params) (m : Nat → Byte) {i : Nat} (hi : i < 32) (n : Nat) :
    xorSum ((List.range n).map fun j => gmul (m j) (hasG p j i)) = if i < n then m i else 0 := by
  induction n with
  | zero => rfl
  | succ n ih =>
    rw [List.range_succ, List.map_append, xorSum_append, ih, List.map_singleton, xorSum_cons, xorSum_nil, xor_zero,
      hasG_systematic p n hi]
    rcases Nat.lt_trichotomy i n with h | rfl | h
    · rw [if_pos h, if_neg h.ne', gmul_zero, xor_zero, if_pos (by omega)]
    · rw [if_neg (lt_irrefl i), if_pos rfl, gmul_one, zero_xor, if_pos (Nat.lt_succ_self i)]
    · rw [if_neg (by omega), if_neg h.ne, gmul_zero, xor_zero, if_neg (by omega)]

theorem pageSymbol_systematic (p : Config.Params) (ms : Nat) (m : Nat → Byte) {i : Nat} (hi : i < 32) :
    pageSymbol p ms m (i + 1) = if i < ms then m i else 0 := xorSum_systematic p m hi ms

section
variable {ms : Nat} {pages : List (Nat × List Byte)}

theorem hasSolve_eq_none (p : Config.Params) (hl : pages.length = ms) (h53 : ∀ q ∈ pages, q.2.length = 53)
    {q : Nat × List Byte} (hq : q ∈ pages) (hlo : ms < q.1) (hhi : q.1 ≤ 32) : hasSolve p ms pages = none := by
  have hzero : ∀ x : List Byte, x.length = ms → dot (pageEquation p ms q).coef x = 0 := by
    intro x hx
    have hpid : q.1 = (q.1 - 1) + 1 := by omega
    rw [← map_getD_range hx 0, dot_pageEquation, hpid, pageSymbol_systematic _ _ _ (by omega), if_neg (by omega)]
  rw [hasSolve, solve_eq_none_of_zero (shaped_pageEquations h53) ((List.length_map _).trans hl)
    (List.mem_map_of_mem hq) hzero]
  rfl

theorem nonsingular_systematic (p : Config.Params) (hms : ms ≤ 32) :
    Nonsingular p ms ((List.range ms).map (· + 1)) := by
  intro m hm i hi
  have h := hm (i + 1) (List.mem_map.2 ⟨i, List.mem_range.2 hi, rfl⟩)
  rwa [pageSymbol_systematic p ms m (by omega), if_pos hi] at h

theorem hasSolve_systematic (p : Config.Params) (hl : pages.length = ms) (h53 : ∀ q ∈ pages, q.2.length = 53)
    (hms : ms ≤ 32) (hpids : pages.map (·.1) = (List.range ms).map (· + 1)) :
    hasSolve p ms pages = some (pages.map (·.2)).flatten := by
  obtain ⟨x, hx⟩ := (hasSolve_isSome_iff h53).2 (hpids ▸ nonsingular_systematic p hms)
  obtain ⟨xs, rfl, hlen, hx53, hsol⟩ := hasSolve_spec hl h53 hx
  have hxs : xs = pages.map (·.2) := by
    refine List.ext_getElem (by simp [hlen, hl]) fun i hi hi' => ?_
    have hip : i < pages.length := by omega
    have hpid : pages[i].1 = i + 1 := by
      have h := congrArg (·[i]?) hpids
      simpa [hip, hl ▸ hip] using h
    rw [List.getElem_map]
    have h53i := h53 _ (List.getElem_mem hip)
    have hx53i := hx53 _ (List.getElem_mem hi)
    refine List.ext_getElem (hx53i.trans h53i.symm) fun r hr hr' => ?_
    have h := hsol _ (List.getElem_mem hip) r
    rw [hpid, pageSymbol_systematic _ _ _ (by omega), if_pos (by omega)] at h
    simpa [hi, hr, hr'] using h
  rw [hx, hxs]

end

/-- Settles O38: systematic columns are columns of the identity, and those beyond MS are 0 on the rows used. -/
theorem systematicPagesDecodeForAnyGenerator : Obligations.SystematicPagesDecodeForAnyGenerator :=
  fun p _ _ hl h53 =>
    ⟨fun hms hpids => hasSolve_systematic p hl h53 hms hpids, fun _ hq hlo hhi => hasSolve_eq_none p hl h53 hq hlo hhi⟩

end Sys2Proof.Proofs.ErasureDecoder
end

section
/-! PROOFS. The HAS page reassembler (O39, O40, O41, O42, O43): the page's operands as numbers, what joining a group
does to its pages, then each outcome of HAS.PAGE. -/

namespace Sys2Proof.Proofs.HasPage

open Sys2Proof Sys2Proof.Machine Sys2Proof.Safety Sys2Proof.Laws Sys2Proof.Proofs.Encoding Sys2Proof.Proofs.Csr
  Sys2Proof.Proofs.Invariant Sys2Proof.Proofs.ErasureDecoder

/-! ### The operands of HAS.PAGE (R84) -/

@[simp] theorem hasOperand_pid (s : State) : (hasOperand s.arg1).pid = pidOf s := by
  simp [hasOperand, pidOf]

@[simp] theorem hasOperand_mid (s : State) : (hasOperand s.arg1).mid = midOf s := by
  simp [hasOperand, midOf, Nat.shiftRight_eq_div_pow]

@[simp] theorem hasOperand_ms (s : State) : (hasOperand s.arg1).ms = msOf s := by
  simp [hasOperand, msOf, Nat.shiftRight_eq_div_pow]

theorem pagePrn_eq (w : Word) : (w.extractLsb' 24 8).setWidth 32 = BitVec.ofNat 32 (w.toNat / 2 ^ 24) := by
  have h := w.isLt
  apply BitVec.eq_of_toNat_eq
  simp only [BitVec.toNat_setWidth, BitVec.extractLsb'_toNat, Nat.shiftRight_eq_div_pow, BitVec.toNat_ofNat]
  omega

/-- The model's HAS record is R154's. -/
theorem hasRecord_eq (s : State) (code : RecCode) (msgid aux oldMs : Nat) :
    hasRecord s (hasOperand s.arg1) code msgid aux oldMs =
      hasRec s code (if code = .rsFail then 8 else 0) msgid aux (oldMs % 256 + 65536 * msOf s) := by
  rw [hasRec, ← pagePrn_eq, ← hasOperand_ms]
  rfl

theorem hasRecord_old_zero (s : State) (code : RecCode) (msgid aux : Nat) :
    hasRecord s (hasOperand s.arg1) code msgid aux 0 =
      hasRec s code (if code = .rsFail then 8 else 0) msgid aux (65536 * msOf s) := by
  rw [hasRecord_eq, Nat.zero_mod, Nat.zero_add]

/-! ### The checks, each with the condition it answers to (R146, R149) -/

theorem exec_hasPage (s : State) : exec .hasPage s = finish .hasPage s (pageCommand (hasOperand s.arg1) s) := rfl

theorem rejectPage_eq (s : State) (code : RecCode) (msgid : Nat) : rejectPage (hasOperand s.arg1) code msgid s =
    { emit (hasRec s code (if code = .rsFail then 8 else 0) msgid (pidOf s) (65536 * msOf s)) s with res := 0 } := by
  rw [rejectPage, hasRecord_old_zero, hasOperand_pid]
  rfl

theorem pageCommand_of_outside {s : State} (h : Config.dmemSize < s.arg0.toNat + 53 ∨
      (1 ≤ msOf s ∧ msOf s ≤ 32 ∧ Config.dmemSize < s.hasDst.toNat + 53 * msOf s)) :
    pageCommand (hasOperand s.arg1) s = .error .addr := by
  rw [pageCommand, hasOperand_ms]
  split_ifs with h1 h2
  · rfl
  · rfl
  all_goals exact absurd (h.resolve_left h1) h2

/-- Past the address checks, PID, MID and MS are tested in that order. -/
theorem pageCommand_of_inside {s : State} (hsrc : s.arg0.toNat + 53 ≤ Config.dmemSize)
    (hdst : 1 ≤ msOf s → msOf s ≤ 32 → s.hasDst.toNat + 53 * msOf s ≤ Config.dmemSize) :
    pageCommand (hasOperand s.arg1) s =
      if pidOf s = 0 then .ok (rejectPage (hasOperand s.arg1) .badPid (midOf s) s)
      else if midOf s = 0 then .ok (rejectPage (hasOperand s.arg1) .badMid 0 s)
      else if msOf s = 0 ∨ msOf s > 32 then .ok (rejectPage (hasOperand s.arg1) .badMs (midOf s) s)
      else .ok (offerPage (hasOperand s.arg1) (s.mem.readBytes s.arg0.toNat 53) s) := by
  rw [pageCommand, hasOperand_ms, hasOperand_pid, hasOperand_mid, if_neg (not_lt.2 hsrc),
    if_neg fun ⟨h1, h2, h3⟩ => absurd (hdst h1 h2) (not_le.2 h3)]

/-- Settles O39: the checks in their order, each with its own outcome. -/
theorem hasPageRejectsInvalidPages : Obligations.HasPageRejectsInvalidPages := by
  refine ⟨encodedAs_wordN (op := 0x32) (by decide) rfl rfl, fun s => ⟨fun h => ?_, fun hsrc hdst => ?_⟩⟩
  · rw [exec_hasPage, pageCommand_of_outside h, finish_error]
  · rw [exec_hasPage, pageCommand_of_inside hsrc hdst, rejectPage_eq, rejectPage_eq, rejectPage_eq]
    refine ⟨fun hp => ?_, fun hp hm => ?_, fun hp hm hs => ?_⟩
    · rw [if_pos hp, hp]
      rfl
    · rw [if_neg (by omega), if_pos hm]
      rfl
    · rw [if_neg (by omega), if_neg (by omega), if_pos hs]
      rfl

/-! ### The pages of a group (R150) -/

section
variable {pid : Nat} {y : List Byte} {ps : List (Nat × List Byte)}

theorem insertPage_perm_of_new (h : ∀ z, (pid, z) ∉ ps) : (insertPage pid y ps).Perm ((pid, y) :: ps) := by
  induction ps with
  | nil => exact .refl _
  | cons p ps ih =>
    obtain ⟨q, z⟩ := p
    have hne : pid ≠ q := fun he => h z (he ▸ List.mem_cons_self)
    rw [insertPage, if_neg hne]
    split_ifs
    · exact .refl _
    · exact ((ih fun w hw => h w (List.mem_cons_of_mem _ hw)).cons _).trans (.swap _ _ _)

theorem insertPage_of_held (h : ∃ z, (pid, z) ∈ ps) (hr : ps.Pairwise fun p q => p.1 < q.1) :
    insertPage pid y ps = ps := by
  induction ps with
  | nil => simp at h
  | cons p ps ih =>
    obtain ⟨q, z⟩ := p
    obtain ⟨hq, hps⟩ := List.pairwise_cons.1 hr
    obtain ⟨w, hw⟩ := h
    rcases List.mem_cons.1 hw with he | hw
    · obtain ⟨rfl, rfl⟩ := Prod.mk.inj he
      rw [insertPage, if_neg (lt_irrefl _), if_pos rfl]
    · have hlt : q < pid := hq _ hw
      rw [insertPage, if_neg (by omega), if_neg (by omega), ih ⟨w, hw⟩ hps]

end

/-! ### A valid page -/

/-- The page's payload. -/
def payload (s : State) : List Byte := s.mem.readBytes s.arg0.toNat 53

/-- The pages of the group with the page. -/
def joined (s : State) (ps : List (Nat × List Byte)) : List (Nat × List Byte) := insertPage (pidOf s) (payload s) ps

theorem joined_length {s : State} {ps : List (Nat × List Byte)} (h : ∀ z, (pidOf s, z) ∉ ps) :
    (joined s ps).length = ps.length + 1 := (insertPage_perm_of_new h).length_eq

theorem mem_joined_iff {s : State} {ps : List (Nat × List Byte)} (h : ∀ z, (pidOf s, z) ∉ ps) (q : Nat × List Byte) :
    q ∈ joined s ps ↔ q ∈ ps ∨ q = (pidOf s, s.mem.readBytes s.arg0.toNat 53) := by
  rw [joined, (insertPage_perm_of_new h).mem_iff, List.mem_cons, or_comm, payload]

theorem midRange_of_validPage {s : State} (h : ValidPage s) : 1 ≤ midOf s ∧ midOf s ≤ 31 := by
  obtain ⟨-, -, -, hmid, -⟩ := h
  exact ⟨hmid, Nat.le_of_lt_succ (Nat.mod_lt _ (by decide))⟩

theorem dstRange_of_validPage {s : State} (h : ValidPage s) :
    s.hasDst.toNat + 53 * msOf s ≤ Config.dmemSize := by
  obtain ⟨-, hdst, -⟩ := h
  exact hdst

theorem exec_hasPage_of_valid {s : State} (h : ValidPage s) :
    exec .hasPage s = .next (offerPage (hasOperand s.arg1) (payload s) s) := by
  obtain ⟨hsrc, hdst, hpid, hmid, hms, hms'⟩ := h
  rw [exec_hasPage, pageCommand_of_inside hsrc fun _ _ => hdst, if_neg (by omega), if_neg (by omega),
    if_neg (by omega), finish_ok, payload]

theorem openGroup_of_held {s : State} {ps : List (Nat × List Byte)} (h : HeldPages s ps) :
    openGroup (hasOperand s.arg1) s = (s, ⟨msOf s, ps⟩) := by
  rcases openGroup_cases (hasOperand s.arg1) s with ⟨hg, ho⟩ | ⟨g, hg, -, ho⟩ | ⟨g, hg, hne, -⟩ <;>
    rw [hasOperand_mid] at hg
  · rcases h with ⟨-, rfl⟩ | h
    · rw [ho, hasOperand_ms]
    · simp [hg] at h
  · rcases h with ⟨h, -⟩ | h
    · simp [hg] at h
    · rw [ho, Option.some.inj (hg.symm.trans h)]
  · rcases h with ⟨h, -⟩ | h
    · simp [hg] at h
    · rw [hasOperand_ms, Option.some.inj (hg.symm.trans h)] at hne
      exact absurd rfl hne

theorem exec_hasPage_of_incomplete {s : State} {ps : List (Nat × List Byte)} (hv : ValidPage s) (h : HeldPages s ps)
    (hlen : (joined s ps).length ≠ msOf s) :
    exec .hasPage s = .next (setRes (joined s ps).length (setSlot (midOf s) (some ⟨msOf s, joined s ps⟩) s)) := by
  rw [exec_hasPage_of_valid hv]
  simp only [offerPage, openGroup_of_held h, hasOperand_pid, hasOperand_mid, hasOperand_ms]
  exact congrArg _ (if_neg hlen)

theorem exec_hasPage_of_complete {s : State} {ps : List (Nat × List Byte)} (hv : ValidPage s) (h : HeldPages s ps)
    (hlen : (joined s ps).length = msOf s) :
    exec .hasPage s =
      .next (setRes 0 (setSlot (midOf s) none (completeGroup (hasOperand s.arg1) ⟨msOf s, joined s ps⟩ s))) := by
  rw [exec_hasPage_of_valid hv]
  simp only [offerPage, openGroup_of_held h, hasOperand_pid, hasOperand_mid, hasOperand_ms]
  exact congrArg _ (if_pos hlen)

theorem setSlot_of_slotOf {s : State} {mid : Nat} {g : HasGroup} (h : slotOf s mid = some g) :
    setSlot mid (some g) s = s := by
  have hv : s.hasSlots[mid - 1]? = some (some g) := by
    unfold slotOf at h
    cases hv : s.hasSlots[mid - 1]? <;> simp_all
  have hset : s.hasSlots.setIfInBounds (mid - 1) (some g) = s.hasSlots := by
    refine Vector.ext fun i hi => ?_
    rw [Vector.getElem_setIfInBounds]
    split_ifs with he
    · subst he
      exact (Vector.getElem_eq_iff.2 hv).symm
    · rfl
  rw [setSlot, hset]

/-- Settles O40: a new page makes the group one longer, a held one leaves the slot's group as it is. -/
theorem hasPageCollectsDistinctPages : Obligations.HasPageCollectsDistinctPages := by
  intro s ps hv hh
  constructor
  · intro hnew hlt
    have hlen := joined_length hnew
    refine ⟨joined s ps, ?_, hlen, mem_joined_iff hnew⟩
    rw [exec_hasPage_of_incomplete hv hh (by omega), hlen]
    rfl
  · intro hheld hr hlt
    have hsame : joined s ps = ps := insertPage_of_held hheld hr
    have hslot : slotOf s (midOf s) = some ⟨msOf s, ps⟩ := by
      rcases hh with ⟨-, rfl⟩ | hh
      · simp at hheld
      · exact hh
    rw [exec_hasPage_of_incomplete hv hh (by rw [hsame]; omega), hsame, setSlot_of_slotOf hslot]
    rfl

/-! ### Replacing a group (R150) -/

theorem emit_setSlot (r : Record) (mid : Nat) (o : Option HasGroup) (s : State) :
    emit r (setSlot mid o s) = setSlot mid o (emit r s) := by
  by_cases h : s.queue.length = Config.recqDepth
  · rw [emit_full h, emit_full (s := setSlot mid o s) h]
    rfl
  · rw [emit_room h, emit_room (s := setSlot mid o s) h]
    rfl

theorem setSlot_setSlot (mid : Nat) (o o' : Option HasGroup) (s : State) :
    setSlot mid o (setSlot mid o' s) = setSlot mid o s := by
  rw [setSlot, setSlot, Vector.setIfInBounds_setIfInBounds]
  rfl

/-- Decoding a group reads and writes no slot. -/
theorem completeGroup_setSlot (op : HasOperand) (g : HasGroup) (mid : Nat) (o : Option HasGroup) (s : State) :
    completeGroup op g (setSlot mid o s) = setSlot mid o (completeGroup op g s) := by
  cases hc : hasSolve s.params op.ms g.pages with
  | some clear =>
    simp only [completeGroup, setSlot_params, hc]
    exact congrArg (fun t : State => { t with hasDone := true })
      (emit_setSlot (hasRecord s op .hasDone op.mid (Config.hasPageBytes * op.ms) 0) mid o
        { s with mem := s.mem.writeBytes s.hasDst.toNat clear })
  | none =>
    simp only [completeGroup, setSlot_params, hc]
    exact congrArg (fun t : State => { t with hasFail := true })
      (emit_setSlot (hasRecord s op .rsFail op.mid 0 0) mid o s)

/-- What a page does depends on its slot only through the group it opens there. -/
theorem offerPage_of_empty {op : HasOperand} (y : List Byte) {s t : State} (hmid : 1 ≤ op.mid ∧ op.mid ≤ 31)
    (h : openGroup op s = (t, ⟨op.ms, []⟩)) : offerPage op y s = offerPage op y (setSlot op.mid none t) := by
  have hopen : openGroup op (setSlot op.mid none t) = (setSlot op.mid none t, ⟨op.ms, []⟩) := by
    simp [openGroup, slotOf_setSlot_same hmid]
  simp only [offerPage, h, hopen, completeGroup_setSlot, setSlot_setSlot]

/-- The record of a replaced group (R154). -/
def mismatchRecord (s : State) (g : HasGroup) : Record :=
  hasRec s .msMismatch 0 (midOf s) (pidOf s) (g.ms + 65536 * msOf s)

theorem hasRecord_mismatch {s : State} {g : HasGroup} (h : g.ms ≤ 32) :
    hasRecord s (hasOperand s.arg1) .msMismatch (midOf s) (pidOf s) g.ms = mismatchRecord s g := by
  rw [hasRecord_eq, Nat.mod_eq_of_lt (by omega)]
  rfl

/-- Settles O41: the record is made first, and then the page opens its group in an EMPTY slot. -/
theorem hasPageReplacesMismatchedGroup : Obligations.HasPageReplacesMismatchedGroup := by
  intro s g hv hslot hle hne
  have hopen : openGroup (hasOperand s.arg1) s = (emit (mismatchRecord s g) s, ⟨(hasOperand s.arg1).ms, []⟩) := by
    simp only [openGroup, hasOperand_mid, hasOperand_pid, hasOperand_ms, hslot, if_pos hne, hasRecord_mismatch hle]
  have hoffer := offerPage_of_empty (payload s) (by simpa using midRange_of_validPage hv) hopen
  have hstate : { emit (mismatchRecord s g) s with hasSlots := s.hasSlots.setIfInBounds (midOf s - 1) none } =
      setSlot (midOf s) none (emit (mismatchRecord s g) s) := by
    rw [setSlot, emit_hasSlots]
  have hvalid : ValidPage (setSlot (midOf s) none (emit (mismatchRecord s g) s)) := by
    simpa [ValidPage, pidOf, midOf, msOf] using hv
  refine Eq.trans ?_ (congrArg (exec .hasPage) hstate.symm)
  rw [exec_hasPage_of_valid hv, exec_hasPage_of_valid hvalid, hoffer, hasOperand_mid]
  simp only [payload, setSlot_arg0, setSlot_arg1, setSlot_mem, emit_arg0, emit_arg1, emit_mem]

/-! ### Completion (R151) -/

/-- In a state that meets the invariant the held pages are as R56 says. -/
theorem heldPages_ok {s : State} {ps : List (Nat × List Byte)} (h : Inv s) (hh : HeldPages s ps) :
    ps.Pairwise (fun p q => p.1 < q.1) ∧ ∀ p ∈ ps, p.2.length = 53 := by
  rcases hh with ⟨-, rfl⟩ | hslot
  · simp
  · have hg := groupOk_slotOf (coreInv_of_inv h) hslot
    exact ⟨hg.rising, fun p hp => (hg.pageOk p hp).2.2⟩

theorem completeGroup_of_solved {s : State} {ps : List (Nat × List Byte)} {clear : List Byte}
    (h : hasSolve s.params (msOf s) ps = some clear) :
    completeGroup (hasOperand s.arg1) ⟨msOf s, ps⟩ s =
      { emit (hasRec s .hasDone 0 (midOf s) (53 * msOf s) (65536 * msOf s))
          { s with mem := s.mem.writeBytes s.hasDst.toNat clear } with hasDone := true } := by
  simp only [completeGroup, hasOperand_ms, hasOperand_mid, h, hasRecord_old_zero]
  rfl

theorem completeGroup_of_singular {s : State} {ps : List (Nat × List Byte)}
    (h : hasSolve s.params (msOf s) ps = none) :
    completeGroup (hasOperand s.arg1) ⟨msOf s, ps⟩ s =
      { emit (hasRec s .rsFail 8 (midOf s) 0 (65536 * msOf s)) s with hasFail := true } := by
  simp only [completeGroup, hasOperand_ms, hasOperand_mid, h, hasRecord_old_zero]
  rfl

/-- Settles O42: the joined pages are well formed, so the cleartext has its length and lies in DMEM. -/
theorem hasPageCompletionDecodes : Obligations.HasPageCompletionDecodes := by
  intro s ps hinv hv hh hnew hlast
  obtain ⟨hrising, h53⟩ := heldPages_ok hinv hh
  have hlen : (joined s ps).length = msOf s := (joined_length hnew).trans hlast
  refine ⟨joined s ps, rising_insertPage _ _ hrising, mem_joined_iff hnew, fun clear hclear => ?_, fun hfail => ?_⟩
  · have hpages : ∀ q ∈ joined s ps, q.2.length = 53 := fun q hq => by
      rcases mem_insertPage hq with rfl | hq
      · exact readBytes_length _ _ _
      · exact h53 q hq
    obtain ⟨hbytes, -⟩ := (hasSolveInvertsNonsingularSystems _ _ _ hlen hpages).2 clear hclear
    have hroom : s.hasDst.toNat + clear.length ≤ Config.dmemSize := hbytes ▸ dstRange_of_validPage hv
    refine ⟨s.mem.writeBytes s.hasDst.toNat clear, ?_, readByte_writeBytes hinv.memWf hroom, hbytes⟩
    rw [exec_hasPage_of_complete hv hh hlen, completeGroup_of_solved hclear]
    simp only [setRes, setSlot, emit_hasSlots]
    rfl
  · rw [exec_hasPage_of_complete hv hh hlen, completeGroup_of_singular hfail]
    simp only [setRes, setSlot, emit_hasSlots]
    rfl

/-! ### HAS.CLR -/

theorem exec_hasClr (s : State) :
    exec .hasClr s = .next { s with hasSlots := Vector.replicate 31 none, res := 0 } := rfl

/-- Settles O43: with every slot EMPTY no bit of HAS_LIVE is set. -/
theorem hasClrEmptiesSlots : Obligations.HasClrEmptiesSlots := by
  refine ⟨encodedAs_wordN (op := 0x33) (by decide) rfl rfl, fun s =>
    ⟨Vector.replicate 31 none, exec_hasClr s, by simp, ?_⟩⟩
  have hempty : ∀ mid, slotOf { s with hasSlots := Vector.replicate 31 none } mid = none := fun mid => by
    rw [slotOf, Vector.getElem?_replicate]
    split_ifs <;> rfl
  refine BitVec.eq_of_getLsbD_eq fun i _ => Eq.trans ?_ BitVec.getLsbD_zero.symm
  rw [← Bool.not_eq_true, hasLive_bit]
  exact fun ⟨_, _, hlive⟩ => hlive (hempty i)

end Sys2Proof.Proofs.HasPage
end

section
/-! PROOFS. The record queue (O44, O45): what `Emit` adds, and how REC.POP takes a record out. -/

namespace Sys2Proof.Proofs.RecordQueue

open Sys2Proof Sys2Proof.Machine Sys2Proof.Safety Sys2Proof.Laws Sys2Proof.Proofs.Words Sys2Proof.Proofs.Encoding
  Sys2Proof.Proofs.Csr Sys2Proof.Proofs.CrcCommands

/-! ### RECQ_NE and `Emit` (R23, R178) -/

/-- RECQ_NE is STATUS bit 1. -/
theorem statusWord_bit_one (s : State) : (statusWord s).getLsbD 1 = true ↔ 0 < s.queue.length := by
  have hfirst := Bool.toNat_le s.err
  have hlevel : (statusWord s).toNat / 2 % 2 = (decide (0 < s.queue.length)).toNat := by
    have := Bool.toNat_le (decide (0 < s.queue.length))
    rw [statusWord_toNat, statusNumber]
    omega
  rw [BitVec.getLsbD, Nat.testBit_eq_decide_div_mod_eq, pow_one, hlevel, decide_eq_true_eq, Bool.toNat_eq_one,
    decide_eq_true_eq]

/-- Settles O44: the two branches of `Emit`, and RECQ_NE as a level of the queue. -/
theorem emitDropsOnlyWhenFull : Obligations.EmitDropsOnlyWhenFull :=
  fun _ s => ⟨emit_full, emit_room, statusWord_bit_one s⟩

/-! ### REC_INFO in the numbers of the spec's tables (R43, R171, R177, R254) -/

theorem stageBits_toNat (g : Stage) : g.bits.toNat = stageNumber g := by cases g <;> rfl

theorem codeBits_toNat (c : RecCode) : c.bits.toNat = codeNumber c := by cases c <;> rfl

theorem info_eq_ofNat (r : Record) : r.info = BitVec.ofNat 32
    (stageNumber r.stage + 16 * kindNumber r.kind + 256 * codeNumber r.code + 65536 * r.errmap.toNat) := by
  rw [← BitVec.setWidth_eq r.info, ← BitVec.ofNat_toNat]
  congr 1
  simp only [Record.info, toNat_append_eq_add, BitVec.ofNat_eq_ofNat, BitVec.toNat_ofNat, stageBits_toNat,
    kindBits_toNat, codeBits_toNat]
  omega

theorem recRegs_ofRecord (r : Record) : RecRegs.ofRecord r =
    ⟨BitVec.ofNat 32 (stageNumber r.stage + 16 * kindNumber r.kind + 256 * codeNumber r.code +
      65536 * r.errmap.toNat), r.prn, r.week, r.tow, r.aux, r.msgid, BitVec.ofNat 16 r.body.length, r.ext⟩ := by
  rw [← info_eq_ofNat]
  rfl

/-! ### REC.POP (R192) -/

/-- A body stored where the range check of R62 passes, as the statements see it; an empty one stores nothing. -/
theorem storedAt_writeBytes {m : Memory} (h : m.wf = true) {a : Nat} {bs : List Byte}
    (hin : bs = [] ∨ a + bs.length ≤ Config.dmemSize) : StoredAt m (m.writeBytes a bs) a bs := by
  rcases hin with rfl | hin
  · intro b
    rw [if_neg (by simp), Memory.writeBytes]
  · exact readByte_writeBytes h hin

theorem exec_recPop (s : State) : exec .recPop s = finish .recPop s (popRecord s) := rfl

section
variable {s : State} {r : Record} {rest : List Record}

theorem popRecord_of_empty (hq : s.queue = []) : popRecord s = .error .qempty := by
  rw [popRecord, hq]

theorem popRecord_of_inside (hq : s.queue = r :: rest) (hin : inDmem s.arg0.toNat r.body.length = true) :
    popRecord s = .ok { s with
      queue := rest
      mem := s.mem.writeBytes s.arg0.toNat r.body
      recRegs := RecRegs.ofRecord r
      res := BitVec.ofNat 64 r.body.length } := by
  rw [popRecord, hq]
  exact if_pos hin

theorem popRecord_of_outside (hq : s.queue = r :: rest) (hout : ¬ inDmem s.arg0.toNat r.body.length = true) :
    popRecord s = .error .addr := by
  rw [popRecord, hq]
  exact if_neg hout

end

/-- Settles O45: QEMPTY before the range check, then the oldest record with its REC_INFO in numbers. -/
theorem recPopRemovesOldest : Obligations.RecPopRemovesOldest := by
  refine ⟨encodedAs_wordN (op := 0x3B) (by decide) rfl rfl, fun s hwf => ⟨fun hq => ?empty, fun r rest hq =>
    ⟨fun hin => ?inside, fun hne hout => ?outside⟩⟩⟩
  case empty => rw [exec_recPop, popRecord_of_empty hq, finish_error]
  case inside =>
    refine ⟨s.mem.writeBytes s.arg0.toNat r.body, ?_, storedAt_writeBytes hwf hin⟩
    rw [exec_recPop, popRecord_of_inside hq (inDmem_iff.2 (hin.imp_left List.length_eq_zero_iff.2)), finish_ok,
      recRegs_ofRecord]
  case outside =>
    have hpos : 1 ≤ r.body.length := List.length_pos_iff.2 hne
    rw [exec_recPop, popRecord_of_outside hq (inDmem_of_outside hpos hout), finish_error]

end Sys2Proof.Proofs.RecordQueue
end

section
/-! PROOFS. Best-satellite selection (O53, O54): the winner of a tick, and what offering a record does to the table. -/

namespace Sys2Proof.Proofs.BestSatellite

open Sys2Proof Sys2Proof.Machine Sys2Proof.Safety Sys2Proof.Laws Sys2Proof.Proofs.Invariant

/-! ### The winner (R197) -/

/-- `e` stands at least as high as `r`: a larger C/No, or the same and no larger a PRN, signed. -/
def Ranks (e r : Record) : Prop :=
  r.aux.toNat % 256 < e.aux.toNat % 256 ∨ (r.aux.toNat % 256 = e.aux.toNat % 256 ∧ e.prn.toInt ≤ r.prn.toInt)

theorem cno_eq (r : Record) : cno r = r.aux.toNat % 256 := by
  rw [cno, BitVec.extractLsb'_toNat, Nat.shiftRight_zero]

/-- What does not win over a record ranks no higher than it. -/
theorem beats_eq_false_iff {a b : Record} : beats a b = false ↔ Ranks b a := by
  simp only [beats, Ranks, cno_eq, BitVec.slt, Bool.or_eq_false_iff, Bool.and_eq_false_iff, decide_eq_false_iff_not]
  omega

theorem ranks_of_beats {a b : Record} (h : beats a b = true) : Ranks a b := by
  have hn : ¬ Ranks b a := by rw [← beats_eq_false_iff, h]; decide
  simp only [Ranks] at hn ⊢
  omega

theorem Ranks.refl (r : Record) : Ranks r r := .inr ⟨rfl, le_rfl⟩

theorem Ranks.trans {a b c : Record} (hab : Ranks a b) (hbc : Ranks b c) : Ranks a c := by
  simp only [Ranks] at hab hbc ⊢
  omega

/-- The winner ranks at least as high as every entry: it is compared with each winner of the rest of the table. -/
theorem bestRecord_ranks {t : List Record} {e : Record} (h : bestRecord t = some e) : ∀ r ∈ t, Ranks e r := by
  induction t generalizing e with
  | nil => simp
  | cons x xs ih =>
    rw [List.forall_mem_cons]
    cases hb : bestRecord xs with
    | none =>
      obtain rfl : x = e := by simpa [bestRecord, hb] using h
      rw [bestRecord_eq_none.1 hb]
      exact ⟨.refl x, by simp⟩
    | some b =>
      have hrest := ih hb
      by_cases hw : beats b x = true
      · obtain rfl : b = e := by simpa [bestRecord, hb, hw] using h
        exact ⟨ranks_of_beats hw, hrest⟩
      · obtain rfl : x = e := by simpa [bestRecord, hb, hw] using h
        exact ⟨.refl x, fun r hr => (beats_eq_false_iff.1 (Bool.eq_false_iff.2 hw)).trans (hrest r hr)⟩

theorem bssClose_of_nil {s : State} (h : s.bssTable = []) : bssClose s = s := by
  rw [bssClose, h, bestRecord]

/-- Settles O53: the entry that is emitted is the table's winner. -/
theorem tickCloseEmitsBestSatellite : Obligations.TickCloseEmitsBestSatellite := by
  refine fun s => ⟨bssClose_of_nil, fun hne => ?_⟩
  rcases bssClose_cases s with ⟨hnil, -⟩ | ⟨e, hmem, hbest, hclose⟩
  · exact absurd hnil hne
  · exact ⟨e, hmem, bestRecord_ranks hbest, hclose⟩

/-- Closing a tick leaves the table empty. -/
theorem bssClose_bssTable (s : State) : (bssClose s).bssTable = [] := by
  rcases bssClose_cases s with ⟨hnil, hclose⟩ | ⟨e, -, -, hclose⟩ <;> rw [hclose]
  exact hnil

/-! ### Offering a record (R195, R196) -/

section
variable {r : Record} {s : State}

theorem bssOffer_of_other_tick (hne : s.bssTable ≠ []) (htow : r.tow ≠ s.bssTow) :
    bssOffer r s = bssOffer r (bssClose s) := by
  have hopen : closeOtherTick r s = bssClose s := if_pos ⟨hne, htow⟩
  have hclosed : closeOtherTick r (bssClose s) = bssClose s := if_neg fun h => h.1 (bssClose_bssTable s)
  rw [bssOffer_eq, bssOffer_eq, hopen, hclosed]

theorem bssOffer_of_same_tick (hne : s.bssTable ≠ []) (htow : r.tow = s.bssTow) : bssOffer r s = bssInsert r s := by
  have hopen : closeOtherTick r s = s := if_neg fun h => h.2 htow
  rw [bssOffer_eq, hopen, if_neg hne]

/-- The test for an entry with the record's PRN. -/
theorem any_prn_iff {t : List Record} : t.any (fun e => e.prn = r.prn) = true ↔ ∃ e ∈ t, e.prn = r.prn := by
  simp

theorem bssInsert_of_held (h : ∃ e ∈ s.bssTable, e.prn = r.prn) :
    bssInsert r s = { s with bssTable := replacePrn r s.bssTable } := if_pos (any_prn_iff.2 h)

theorem bssInsert_of_new (h : ∀ e ∈ s.bssTable, e.prn ≠ r.prn) : bssInsert r s =
    if s.bssTable.length < 32 then { s with bssTable := s.bssTable ++ [r] } else { s with cntDrop := s.cntDrop + 1 } :=
  if_neg fun hany => let ⟨e, he, heq⟩ := any_prn_iff.1 hany; h e he heq

theorem replacePrn_of_new {t : List Record} (h : ∀ e ∈ t, e.prn ≠ r.prn) : replacePrn r t = t :=
  (List.map_congr_left fun e he => if_neg (h e he)).trans t.map_id

theorem replacePrn_middle {pre post : List Record} {e : Record} (he : e.prn = r.prn)
    (hother : ∀ x ∈ pre ++ post, x.prn ≠ r.prn) : replacePrn r (pre ++ e :: post) = pre ++ r :: post := by
  obtain ⟨hpre, hpost⟩ := List.forall_mem_append.1 hother
  have hsplit : replacePrn r (pre ++ e :: post) = replacePrn r pre ++ r :: replacePrn r post := by
    simp [replacePrn, he]
  rw [hsplit, replacePrn_of_new hpre, replacePrn_of_new hpost]

/-- The first record of a tick opens it. -/
theorem bssOffer_of_empty (h : s.bssTable = []) :
    bssOffer r s = { s with bssTable := [r], bssTow := r.tow } := by
  have hopen : closeOtherTick r s = s := if_neg fun hc => hc.1 h
  rw [bssOffer_eq, hopen, if_pos h, bssInsert_of_new (by simp [h])]
  simp [h]

end

/-- Settles O54: a record of another tick first closes the open one; a record of the tick takes the place of its PRN's
entry, a free place, or none. -/
theorem bssOfferKeepsLatestPerSatellite : Obligations.BssOfferKeepsLatestPerSatellite := by
  refine fun r s => ⟨bssOffer_of_other_tick, bssOffer_of_empty, fun hne htow => ?_⟩
  rw [bssOffer_of_same_tick hne htow]
  refine ⟨fun pre e post ht he hother => ?held, fun hnew hroom => ?room, fun hnew hfull => ?full⟩
  case held => rw [bssInsert_of_held ⟨e, by simp [ht], he⟩, ht, replacePrn_middle he hother]
  case room => rw [bssInsert_of_new hnew, if_pos hroom]
  case full => rw [bssInsert_of_new hnew, if_neg (not_lt.2 hfull)]

end Sys2Proof.Proofs.BestSatellite
end

section
/-! PROOFS. Delivery and the scan (O46, O47, O49): which records are dropped, emitted or offered, and the scan as turns
of one outcome each. -/

namespace Sys2Proof.Proofs.Scan

open Sys2Proof Sys2Proof.Machine Sys2Proof.Safety Sys2Proof.Laws Sys2Proof.Proofs.Invariant
  Sys2Proof.Proofs.FrameFeed

/-- Settles O47: the bounds of `classify_bounded`, outcome by outcome. -/
theorem classificationIsBounded : Obligations.ClassificationIsBounded := by
  refine fun init k p _ => ⟨classify_needMore_short, fun n f => classify_ok_bounds, fun c b h => ?_⟩
  have hb := classify_bounded init k p
  rw [h] at hb
  exact hb

/-! ### Delivery (R180, R194) -/

theorem carriesPrn_iff (k : Kind) :
    k.carriesPrn = true ↔ k ∈ [Kind.allystar, Kind.rawL6, Kind.rawL1s, Kind.rawE6b, Kind.rawB2b] := by
  cases k <;> decide

/-- The PIN filter compares signed numbers. -/
theorem eq_signExtend_iff (v : Word) (pin : BitVec 16) : v = pin.signExtend 32 ↔ v.toInt = pin.toInt := by
  rw [← BitVec.toInt_inj, BitVec.toInt_signExtend_of_le (by decide)]

theorem pinRejects_iff (s : State) (r : Record) : pinRejects s r = true ↔ s.dmxCfg.pinEn = true ∧
    s.dmxCfg.kind ∈ [Kind.allystar, Kind.rawL6, Kind.rawL1s, Kind.rawE6b, Kind.rawB2b] ∧
    r.prn.toInt ≠ s.dmxCfg.pinPrn.toInt := by
  rw [pinRejects, Bool.and_eq_true, Bool.and_eq_true, decide_eq_true_eq, carriesPrn_iff, Ne, eq_signExtend_iff,
    and_assoc]

/-- An error-free record is counted and then dropped, offered or emitted (R180). -/
theorem deliver_of_clean {r : Record} {s : State} (h : r.errmap = 0) : deliver r s =
    if pinRejects s r then { s with cntOk := s.cntOk + 1 }
    else if s.dmxCfg.kind = .allystar ∧ s.dmxCfg.bssEn = true then bssOffer r { s with cntOk := s.cntOk + 1 }
    else emit r { s with cntOk := s.cntOk + 1 } := if_neg (not_not.2 h)

/-- Settles O49: ERRMAP first, then the PIN filter, then the selection. -/
theorem deliverCountsAndFilters : Obligations.DeliverCountsAndFilters := by
  refine fun r s => ⟨fun herr => if_pos herr, fun h0 hen hk hprn => ?rejected, fun h0 hpass => ?passed⟩
  case rejected => rw [deliver_of_clean h0, if_pos ((pinRejects_iff s r).2 ⟨hen, hk, hprn⟩)]
  case passed =>
    have hpin : ¬ pinRejects s r = true := by
      rw [pinRejects_iff]
      rintro ⟨hen, hk, hprn⟩
      rcases hpass with hoff | hkind | hsat
      · simp [hoff] at hen
      · exact hkind hk
      · exact hprn hsat
    rw [deliver_of_clean h0, if_neg hpin]
    refine ⟨fun hk hb => if_pos ⟨hk, hb⟩, fun hno => if_neg ?_⟩
    rintro ⟨hk, hb⟩
    rcases hno with hkind | hoff
    · exact hkind hk
    · simp [hoff] at hb

/-! ### The scan, turn by turn (R174) -/

/-- One turn of `Scan()`: what it leaves, or nothing when the scan stops. -/
def scanTurn (s : State) : Option State :=
  match s.pending with
  | [] => none
  | b :: rest =>
    match classify s.params.crc24qInit s.dmxCfg.kind (b :: rest) with
    | .needMore => none
    | .noSync => some (skipByte rest s)
    | .err code bit => some (rejectFrame code bit rest s)
    | .ok n f => some (deliver (frameRecord s f) { s with pending := (b :: rest).drop n })

theorem scan_succ (fuel : Nat) (s : State) : scan (fuel + 1) s = (scanTurn s).elim s (scan fuel) := by
  rw [scan, scanTurn]
  cases hp : s.pending with
  | nil => rfl
  | cons b rest =>
    dsimp only
    cases classify s.params.crc24qInit s.dmxCfg.kind (b :: rest) <;> rfl

theorem scanTurn_of_nil {s : State} (h : s.pending = []) : scanTurn s = none := by
  rw [scanTurn, h]

/-- A turn on pending bytes, by the outcome of their classification. -/
theorem scanTurn_of_ne_nil {s : State} (h : s.pending ≠ []) : scanTurn s =
    match classify s.params.crc24qInit s.dmxCfg.kind s.pending with
    | .needMore => none
    | .noSync => some (skipByte s.pending.tail s)
    | .err code bit => some (rejectFrame code bit s.pending.tail s)
    | .ok n f => some (deliver (frameRecord s f) { s with pending := s.pending.drop n }) := by
  obtain ⟨b, rest, hp⟩ := List.exists_cons_of_ne_nil h
  rw [scanTurn, hp]
  rfl

/-- Every turn takes at least one byte. -/
theorem scanTurn_pending_lt {s t : State} (h : scanTurn s = some t) : t.pending.length < s.pending.length := by
  by_cases hp : s.pending = []
  · simp [scanTurn_of_nil hp] at h
  have hpos := List.length_pos_iff.2 hp
  rw [scanTurn_of_ne_nil hp] at h
  cases hc : classify s.params.crc24qInit s.dmxCfg.kind s.pending with
  | needMore => simp [hc] at h
  | noSync =>
    obtain rfl : skipByte s.pending.tail s = t := by simpa [hc] using h
    simpa using hpos
  | err code bit =>
    obtain rfl : rejectFrame code bit s.pending.tail s = t := by simpa [hc] using h
    simpa [rejectFrame] using hpos
  | ok n f =>
    obtain rfl : deliver (frameRecord s f) { s with pending := s.pending.drop n } = t := by simpa [hc] using h
    obtain ⟨hn, -⟩ := classify_ok_bounds hc
    obtain ⟨hdrop, -⟩ := deliver_sameInput (frameRecord s f) { s with pending := s.pending.drop n }
    rw [hdrop, List.length_drop]
    omega

/-- Turns beyond the number of pending bytes do nothing. -/
theorem scan_eq_of_enough {k fuel : Nat} {s : State} (hk : s.pending.length ≤ k) (hf : s.pending.length ≤ fuel) :
    scan k s = scan fuel s := by
  induction k generalizing fuel s with
  | zero =>
    have hnil : s.pending = [] := List.length_eq_zero_iff.1 (Nat.le_zero.1 hk)
    rw [scan_of_pending_nil _ hnil, scan_of_pending_nil _ hnil]
  | succ k ih =>
    cases fuel with
    | zero =>
      have hnil : s.pending = [] := List.length_eq_zero_iff.1 (Nat.le_zero.1 hf)
      rw [scan_of_pending_nil _ hnil, scan_of_pending_nil _ hnil]
    | succ fuel =>
      rw [scan_succ, scan_succ]
      cases ht : scanTurn s with
      | none => rfl
      | some t =>
        have hlt := scanTurn_pending_lt ht
        exact ih (by omega) (by omega)

theorem scan_eq_scanAll {fuel : Nat} {s : State} (h : s.pending.length ≤ fuel) : scan fuel s = scanAll s :=
  scan_eq_of_enough h le_rfl

theorem scanAll_of_turn_none {s : State} (h : scanTurn s = none) : scanAll s = s := by
  rw [← scan_eq_scanAll (Nat.le_succ _), scan_succ, h]
  rfl

theorem scanAll_of_turn_some {s t : State} (h : scanTurn s = some t) : scanAll s = scanAll t := by
  rw [← scan_eq_scanAll (Nat.le_succ _), scan_succ, h]
  exact scan_eq_scanAll (scanTurn_pending_lt h).le

/-! ### The records of a turn (R177, R179) -/

theorem frameRecord_eq (s : State) (f : FrameFields) : frameRecord s f =
    ⟨.dmx, s.dmxCfg.kind, .frame, f.errmap, f.prn, f.time.elim s.ctxWeek Prod.fst, f.time.elim s.ctxTow Prod.snd,
      f.aux, f.msgid, f.ext, f.body⟩ := by
  rw [frameRecord]
  cases f.time <;> rfl

theorem rejectFrame_eq (code : RecCode) (bit : Nat) (rest : List Byte) (s : State) : rejectFrame code bit rest s =
    { emit ⟨.dmx, s.dmxCfg.kind, code, 1#7 <<< bit, 0, s.ctxWeek, s.ctxTow, 0, 0, 0, []⟩ s with
      cntErr := s.cntErr + 1
      pending := rest } := by
  simp only [rejectFrame, emit_cntErr]
  rfl

/-- Settles O46: each outcome is one turn, and what follows it is the scan of what the turn leaves. -/
theorem scanFollowsClassification : Obligations.ScanFollowsClassification := by
  refine fun s => ⟨fun hp => scanAll_of_turn_none (scanTurn_of_nil hp), fun hp => ?_⟩
  have hturn := scanTurn_of_ne_nil hp
  cases hc : classify s.params.crc24qInit s.dmxCfg.kind s.pending with
  | needMore => exact scanAll_of_turn_none (by rw [hturn, hc])
  | noSync => exact scanAll_of_turn_some (by rw [hturn, hc]; rfl)
  | err code bit => exact scanAll_of_turn_some (by rw [hturn, hc, ← rejectFrame_eq])
  | ok n f => exact scanAll_of_turn_some (by rw [hturn, hc, ← frameRecord_eq])

end Sys2Proof.Proofs.Scan
end

section
/-! PROOFS. The demultiplexer's commands and its configuration (O50, O51, O52, O16). -/

namespace Sys2Proof.Proofs.DemuxCommands

open Sys2Proof Sys2Proof.Machine Sys2Proof.Safety Sys2Proof.Laws Sys2Proof.Proofs.Encoding Sys2Proof.Proofs.Csr
  Sys2Proof.Proofs.CrcCommands Sys2Proof.Proofs.FrameFeed Sys2Proof.Proofs.Scan Sys2Proof.Proofs.BestSatellite

/-! ### Pushing bytes (R172, R193, R200) -/

theorem push_eq_scanAll (s : State) (b : Byte) : push s b = scanAll { s with pending := s.pending ++ [b] } :=
  scan_eq_scanAll (by simp)

theorem exec_dmxByte (b : Byte) (s : State) :
    exec (.dmxByte b) s = finish (.dmxByte b) s (.ok (pushAll [b] s)) := rfl

/-- Settles O50: the command pushes a list of one byte. -/
theorem dmxBytePushesOneByte : Obligations.DmxBytePushesOneByte := by
  intro b s t ht
  refine ⟨encodedAs_wordI8 (op := 0x38) (by decide) rfl rfl, ?_⟩
  have hpush : [b].foldl push (beginCommand s) = t := (push_eq_scanAll _ b).trans ht.symm
  rw [exec_dmxByte, finish_ok, pushAll_eq, hpush]
  rfl

theorem foldl_push_eq (bs : List Byte) (s : State) :
    bs.foldl push s = bs.foldl (fun u b => scanAll { u with pending := u.pending ++ [b] }) s :=
  congrArg (fun f => bs.foldl f s) (funext₂ push_eq_scanAll)

/-- Settles O51: the range check, then one push for each byte read. -/
theorem dmxFeedPushesBytesInOrder : Obligations.DmxFeedPushesBytesInOrder := by
  refine ⟨encodedAs_wordN (op := 0x39) (by decide) rfl rfl, fun s t ht => ⟨fun hin => ?inside, fun hn hout =>
    ?outside⟩⟩
  case inside =>
    have hpush : (s.mem.readBytes s.arg0.toNat s.arg1.toNat).foldl push (beginCommand s) = t :=
      (foldl_push_eq _ _).trans ht.symm
    rw [exec_dmxFeed, feed, if_pos (inDmem_iff.2 hin), finish_ok, pushAll_eq, hpush]
    rfl
  case outside => rw [exec_dmxFeed, feed, if_neg (inDmem_of_outside hn hout), finish_error]

/-! ### The end of the stream (R198) -/

theorem exec_dmxEos (s : State) : exec .dmxEos s = .next (endOfStream s) := rfl

/-- Settles O52: closing the tick leaves the pending bytes dropped and the table empty. -/
theorem dmxEosClosesStream : Obligations.DmxEosClosesStream := by
  refine ⟨encodedAs_wordN (op := 0x3A) (by decide) rfl rfl, fun s t ht => ?_⟩
  subst ht
  exact ⟨exec_dmxEos s, (bssClose_sameInput _).1, bssClose_bssTable _⟩

/-! ### DMX_CFG (R38, R199) -/

/-- KIND codes 10 to 15 store 0. -/
theorem kindNumber_ofCode (k : Nat) : kindNumber (Kind.ofCode k) = if k ≤ 9 then k else 0 := by
  by_cases h : k ≤ 9
  · rw [if_pos h]
    interval_cases k <;> rfl
  · obtain ⟨j, rfl⟩ := Nat.exists_eq_add_of_le' (Nat.lt_of_not_le h)
    rw [if_neg h]
    rfl

theorem csrStore_dmxCfg (v : Word) (s : State) : csrStore 0x20 v s = writeDmxCfg v s := rfl

theorem csrValue_dmxCfg (s : State) : csrValue 0x20 s = s.dmxCfg.toWord := rfl

theorem writeDmxCfg_dmxCfg (v : Word) (s : State) : (writeDmxCfg v s).dmxCfg = DmxCfg.ofWord v := by
  simp only [writeDmxCfg]
  split_ifs <;> rfl

/-- Settles O16: the configuration that the written word stores. -/
theorem dmxCfgWriteKeepsLegalKind : Obligations.DmxCfgWriteKeepsLegalKind := by
  refine fun v s => ⟨DmxCfg.ofWord v, ?_, rfl, rfl, ?_, fun hk hb => if_pos ⟨hk, hb⟩, fun hne => if_neg ?_, ?_⟩
  · rw [DmxCfg.ofWord, kindNumber_ofCode, BitVec.extractLsb'_toNat, Nat.shiftRight_zero]
  · have hv := v.isLt
    rw [DmxCfg.ofWord, BitVec.extractLsb'_toNat, Nat.shiftRight_eq_div_pow]
    omega
  · rintro ⟨hk, hb⟩
    exact hne.elim (absurd hk) (absurd hb)
  · rw [csrStore_dmxCfg, csrValue_dmxCfg, writeDmxCfg_dmxCfg, dmxCfgWord_toNat]

end Sys2Proof.Proofs.DemuxCommands
end

section
/-! PROOFS. Framing, kind by kind (O48): what each classification rule answers, in the numbers of the statements. -/

namespace Sys2Proof.Proofs.Framing

open Sys2Proof Sys2Proof.Machine Sys2Proof.Safety Sys2Proof.Laws Sys2Proof.Proofs.Words Sys2Proof.Proofs.RtcmFrame
  Sys2Proof.Proofs.CrcDivision

/-! ### Sync patterns (R173) -/

section
variable {init : BitVec 24} {p : List Byte} {k : Kind} {rest : Machine.Class}

theorem afterSync_of_take {sync : List Byte} (h : p.take sync.length = sync) : afterSync p sync rest = rest := by
  rw [afterSync, syncMatch_of_take h]
  rfl

theorem syncRule_of_afterSync (h : classify init k p = afterSync p (syncOf k) rest) : SyncRule init p k := by
  rw [SyncRule, h, afterSync]
  refine ⟨fun hne => ?_, fun hlt hpre => ?_⟩
  · rw [syncMatch_of_ne hne]
    rfl
  · rw [syncMatch_of_prefix hlt hpre]
    rfl

/-- A kind without a pattern has no sync test. -/
theorem syncRule_of_nil (h : syncOf k = []) : SyncRule init p k := by
  rw [SyncRule, h]
  exact ⟨fun hne => absurd (by simp) hne, fun hlt => absurd hlt (Nat.not_lt_zero _)⟩

theorem byteAt_zero_of_take {b : Byte} (h : p.take 1 = [b]) : byteAt p 0 = b := by
  cases p with
  | nil => simp at h
  | cons x p => exact (List.cons.inj h).1

/-- RTCM 3 tests its one sync byte itself. -/
theorem syncRule_rtcm3 (hp : p ≠ []) : SyncRule init p .rtcm3 := by
  obtain ⟨x, p, rfl⟩ := List.exists_cons_of_ne_nil hp
  refine ⟨fun hne => ?_, fun hlt => absurd hlt (by simp [syncOf])⟩
  have hx : byteAt (x :: p) 0 ≠ 0xD3 := fun h => hne (by simpa [syncOf, byteAt] using h)
  rw [classify, classifyRtcm, if_pos hx]

theorem syncRule (hp : p ≠ []) : SyncRule init p k := by
  cases k with
  | rtcm3 => exact syncRule_rtcm3 hp
  | allystar => exact syncRule_of_afterSync rfl
  | novatel => exact syncRule_of_afterSync rfl
  | sbf => exact syncRule_of_afterSync rfl
  | ubx => exact syncRule_of_afterSync rfl
  | rawL6 => exact syncRule_of_afterSync rfl
  -- The other kinds have no pattern.
  | _ => exact syncRule_of_nil rfl

end

/-! ### The last part of a rule: wait for the whole frame, then check it -/

section
variable {p : List Byte} {n : Nat} {f : FrameFields} {out : Machine.Class}

theorem wholeFrame_of_check {bad checks : Prop} [Decidable bad]
    (hout : out = need p n (if bad then checksumError else .ok n f)) (hbad : bad ↔ ¬ checks) :
    WholeFrame out p n checks f := by
  subst hout
  refine ⟨need_of_short _, fun hn hc => ?_, fun hn hc => ?_⟩
  · rw [need_of_long _ hn, if_pos (hbad.2 hc)]
    rfl
  · rw [need_of_long _ hn, if_neg fun h => hbad.1 h hc]

/-- A kind without a check accepts every whole frame. -/
theorem wholeFrame_of_need (hout : out = need p n (.ok n f)) : WholeFrame out p n True f := by
  subst hout
  exact ⟨need_of_short _, fun _ h => absurd trivial h, fun hn _ => need_of_long _ hn⟩

end

/-- A frame's part, by its length. -/
theorem slice_add (p : List Byte) (a n : Nat) : slice p a (a + n) = (p.drop a).take n := by
  rw [slice, Nat.add_sub_cancel_left]

theorem setWidth_eq_ofNat (p : List Byte) (i : Nat) : (byteAt p i).setWidth 32 = BitVec.ofNat 32 (num p i) :=
  (BitVec.ofNat_toNat ..).symm

/-! ### RTCM3 (R127, R181) -/

theorem crc24q_eq (init : BitVec 24) (bs : List Byte) : crc24q init bs = bs.foldl crcBits init :=
  congrArg (fun f => bs.foldl f init) (funext₂ crcStep_eq_crcBits)

theorem be24_eq (p : List Byte) (a : Nat) : be24 p a = 256 * numBe p a + num p (a + 2) := rfl

theorem shiftRight_ne_zero {b : Byte} (k : Nat) : b >>> k ≠ 0 ↔ 2 ^ k ≤ b.toNat := by
  have hzero : b >>> k = 0 ↔ b.toNat / 2 ^ k = 0 := by
    rw [← BitVec.toNat_inj, BitVec.toNat_ushiftRight, Nat.shiftRight_eq_div_pow]
    rfl
  rw [Ne, hzero, Nat.div_eq_zero_iff_lt (by positivity), not_lt]

theorem classify_rtcm3 {init : BitVec 24} {p : List Byte} {len : Nat} (hsync : p.take 1 = syncOf .rtcm3)
    (hlen : len = 256 * (num p 1 % 4) + num p 2) : classify init .rtcm3 p =
      need p 2 (if byteAt p 1 >>> 2 ≠ 0 then .noSync else need p 3 (if len = 0 then lengthError else
        need p (len + 6) (if (crc24q init (p.take (len + 3))).toNat ≠ be24 p (len + 3) then checksumError
          else .ok (len + 6) (rtcmFields p len)))) := by
  subst hlen
  exact if_neg (not_not.2 (byteAt_zero_of_take hsync))

theorem rtcmFields_eq {p : List Byte} {len : Nat} (h1 : 1 ≤ len) : rtcmFields p len =
    ⟨0, 0, none, 0, BitVec.ofNat 16 (if len = 1 then 0xFFFF else 16 * num p 3 + num p 4 / 16), 0,
      (p.drop 3).take len⟩ := by
  rw [rtcmFields, slice_add]
  by_cases hone : len = 1
  · rw [if_neg (by omega), if_pos hone]
    rfl
  · rw [if_pos (by omega), if_neg hone]
    rfl

theorem rtcmRule {init : BitVec 24} {p : List Byte} (hsync : p.take 1 = syncOf .rtcm3) : RtcmRule init p := by
  intro len out hlen hout
  rw [classify_rtcm3 hsync hlen] at hout
  refine ⟨fun h1 => ?_, fun h2 hres => ?_, fun hres => ?_⟩
  · rw [hout, need_of_short _ (by omega)]
  · rw [hout, need_of_long _ h2, if_pos ((shiftRight_ne_zero (b := byteAt p 1) 2).2 hres)]
  have hzero : ¬ byteAt p 1 >>> 2 ≠ 0 := fun h => absurd ((shiftRight_ne_zero 2).1 h) (not_le.2 hres)
  refine ⟨fun h2 => ?_, fun h3 h0 => ?_, fun h3 h1 => ?_⟩
  · rw [hout, need_of_long _ (by omega), if_neg hzero, need_of_short _ (by omega)]
  · rw [hout, need_of_long _ (by omega), if_neg hzero, need_of_long _ h3, if_pos h0]
    rfl
  · rw [need_of_long _ (by omega), if_neg hzero, need_of_long _ h3, if_neg (by omega), rtcmFields_eq h1] at hout
    exact wholeFrame_of_check hout (by rw [crc24q_eq, be24_eq])

/-! ### ALLYSTAR (R182, R189) -/

theorem toNat_getLsbD (b : Byte) (i : Nat) : (b.getLsbD i).toNat = b.toNat / 2 ^ i % 2 := by
  rw [BitVec.getLsbD, Nat.toNat_testBit]

theorem toNat_eq_ite {b : Bool} {P : Prop} [Decidable P] (h : b = true ↔ ¬ P) : b.toNat = if P then 0 else 1 := by
  cases b <;> simp_all

theorem allystarErrmap_eq (dlen flags : Byte) :
    allystarErrmap dlen flags = BitVec.ofNat 7 (allystarMap dlen.toNat flags.toNat) := by
  have hhigh : (flags >>> 3 != 0).toNat = if flags.toNat / 8 = 0 then 0 else 1 :=
    toNat_eq_ite (by rw [bne_iff_ne, shiftRight_ne_zero]; omega)
  have hlen : (decide ((dlen.toNat : Int) - 2 ≠ 63)).toNat = if dlen.toNat = 65 then 0 else 1 :=
    toNat_eq_ite (by rw [decide_eq_true_eq]; omega)
  apply BitVec.eq_of_toNat_eq
  simp only [allystarErrmap, allystarMap, toNat_append_eq_add, BitVec.toNat_ofBool, toNat_getLsbD, hlen, hhigh,
    BitVec.toNat_ofNat, show (0 : BitVec 2).toNat = 0 from rfl]
  split_ifs <;> omega

theorem append_four (a b c d : Byte) : a ++ b ++ c ++ d =
    BitVec.ofNat 32 (d.toNat + 256 * c.toNat + 65536 * b.toNat + 16777216 * a.toNat) := by
  apply BitVec.eq_of_toNat_eq
  simp only [toNat_append_eq_add, BitVec.toNat_ofNat]
  omega

theorem allystarFields_eq (p : List Byte) : allystarFields p =
    ⟨BitVec.ofNat 7 (allystarMap (num p 9) (num p 17)), BitVec.ofInt 32 ((numLe p 6 : Int) - 700),
      some (BitVec.ofNat 16 (numBe p 10), BitVec.ofNat 32 (65536 * numBe p 12 + numBe p 14)),
      BitVec.ofNat 32 (num p 16 + 256 * num p 8 + 65536 * num p 17 + 16777216 * num p 9), 0,
      BitVec.ofNat 32 (numBe p 268), (p.drop 18).take 250⟩ := by
  rw [allystarFields, allystarErrmap_eq, append_four]
  rfl

/-- The two bytes after the region are its Fletcher sums (R182). -/
theorem fletcher8_ne_iff (bs p : List Byte) (i j : Nat) :
    fletcher8 bs ≠ (byteAt p i, byteAt p j) ↔ ¬ (num p i = fletcherA bs ∧ num p j = fletcherB bs) :=
  not_congr (fletcher8_eq_iff bs _ _)

theorem classify_allystar {init : BitVec 24} {p : List Byte} (hsync : p.take 4 = syncOf .allystar) :
    classify init .allystar p = need p 6 (if numLe p 4 ≠ 264 then lengthError else
      need p 272 (if fletcher8 ((p.drop 2).take 268) ≠ (byteAt p 270, byteAt p 271) then checksumError
        else .ok 272 (allystarFields p))) := afterSync_of_take hsync

theorem allystarRule {init : BitVec 24} {p : List Byte} (hsync : p.take 4 = syncOf .allystar) :
    AllystarRule init p := by
  intro out region hout hregion
  subst hregion
  rw [classify_allystar hsync] at hout
  refine ⟨fun h6 => ?_, fun h6 hlen => ?_, fun h6 hlen => ?_⟩
  · rw [hout, need_of_short _ h6]
  · rw [hout, need_of_long _ h6, if_pos hlen]
    rfl
  · rw [need_of_long _ h6, if_neg (not_not.2 hlen), allystarFields_eq] at hout
    exact wholeFrame_of_check hout (fletcher8_ne_iff _ p 270 271)

/-! ### NOVATEL (R183) -/

theorem le32_eq (p : List Byte) (a : Nat) : le32 p a = numLe p a + 65536 * numLe p (a + 2) := rfl

theorem classify_novatel {init : BitVec 24} {p : List Byte} {h m : Nat} (hsync : p.take 3 = syncOf .novatel)
    (hh : h = num p 3) (hm : m = numLe p 8) : classify init .novatel p =
      need p 4 (if h < 10 then lengthError else need p 10 (if m = 0 ∨ h + m + 4 > 2048 then lengthError else
        need p (h + m + 4) (if (crc32r (p.take (h + m))).toNat ≠ le32 p (h + m) then checksumError
          else .ok (h + m + 4)
            ⟨0, 0, none, 0, BitVec.ofNat 16 (numLe p 4), BitVec.ofNat 32 h, slice p h (h + m)⟩))) := by
  subst hh hm
  exact afterSync_of_take hsync

theorem novatelRule {init : BitVec 24} {p : List Byte} (hsync : p.take 3 = syncOf .novatel) : NovatelRule init p := by
  intro h m out hh hm hout
  rw [classify_novatel hsync hh hm] at hout
  refine ⟨fun h3 => ?_, fun h4 hshort => ?_, fun h4 hten => ⟨fun h10 => ?_, fun h10 hbad => ?_, fun h10 h1 hmax => ?_⟩⟩
  · rw [hout, need_of_short _ (by omega)]
  · rw [hout, need_of_long _ h4, if_pos hshort]
    rfl
  all_goals rw [need_of_long _ h4, if_neg (not_lt.2 hten)] at hout
  · rw [hout, need_of_short _ h10]
  · rw [hout, need_of_long _ h10, if_pos hbad]
    rfl
  · rw [need_of_long _ h10, if_neg (by omega), slice_add] at hout
    exact wholeFrame_of_check hout (by rw [crc32r_toNat, le32_eq])

/-! ### SBF (R184) -/

theorem classify_sbf {init : BitVec 24} {p : List Byte} {n : Nat} (hsync : p.take 2 = syncOf .sbf)
    (hn : n = numLe p 6) : classify init .sbf p =
      need p 8 (if n = 0 ∨ n % 4 ≠ 0 ∨ n < 8 ∨ n > 2048 then lengthError else
        need p n (if (crc16 ((p.drop 4).take (n - 4))).toNat ≠ numLe p 2 then checksumError
          else .ok n ⟨0, 0, none, 0, BitVec.ofNat 16 (numLe p 4 % 8192), BitVec.ofNat 32 (numLe p 4 / 8192),
            (p.drop 8).take (n - 8)⟩)) := by
  subst hn
  exact afterSync_of_take hsync

theorem sbfRule {init : BitVec 24} {p : List Byte} (hsync : p.take 2 = syncOf .sbf) : SbfRule init p := by
  intro n out hn hout
  rw [classify_sbf hsync hn] at hout
  refine ⟨fun h8 => ?_, fun h8 hbad => ?_, fun h8 hmin hmod hmax => ?_⟩
  · rw [hout, need_of_short _ h8]
  · rw [hout, need_of_long _ h8, if_pos (by omega)]
    rfl
  · rw [need_of_long _ h8, if_neg (by omega)] at hout
    exact wholeFrame_of_check hout (by rw [crc16_toNat])

/-! ### UBX (R185) -/

theorem classify_ubx {init : BitVec 24} {p : List Byte} {n : Nat} (hsync : p.take 2 = syncOf .ubx)
    (hn : n = numLe p 4) : classify init .ubx p =
      need p 6 (if n = 0 ∨ n + 8 > 2048 then lengthError else
        need p (n + 8) (if fletcher8 (slice p 2 (6 + n)) ≠ (byteAt p (6 + n), byteAt p (7 + n)) then checksumError
          else .ok (n + 8) ⟨0, 0, none, 0, BitVec.ofNat 16 (numBe p 2), 0, slice p 6 (6 + n)⟩)) := by
  subst hn
  exact afterSync_of_take hsync

theorem ubxRule {init : BitVec 24} {p : List Byte} (hsync : p.take 2 = syncOf .ubx) : UbxRule init p := by
  intro n out region hn hout hregion
  subst hregion
  rw [classify_ubx hsync hn] at hout
  refine ⟨fun h6 => ?_, fun h6 hbad => ?_, fun h6 h1 hmax => ?_⟩
  · rw [hout, need_of_short _ h6]
  · rw [hout, need_of_long _ h6, if_pos hbad]
    rfl
  · rw [need_of_long _ h6, if_neg (by omega), slice_add p 6, show 6 + n = 2 + (n + 4) by omega, slice_add p 2,
      show 2 + (n + 4) = n + 6 by omega, show 7 + n = n + 7 by omega] at hout
    exact wholeFrame_of_check hout (fletcher8_ne_iff _ p (n + 6) (n + 7))

/-! ### The raw kinds (R186, R187) -/

theorem classify_rawL6 {init : BitVec 24} {p : List Byte} (hsync : p.take 4 = syncOf .rawL6) :
    classify init .rawL6 p = need p 250 (.ok 250
      ⟨0, (byteAt p 4).setWidth 32, none, BitVec.ofNat 32 (num p 5 + 256 * (num p 6 / 128)), 0, 0, p.take 250⟩) :=
  afterSync_of_take hsync

theorem rawL6Rule {init : BitVec 24} {p : List Byte} (hsync : p.take 4 = syncOf .rawL6) : RawL6Rule init p :=
  wholeFrame_of_need (by rw [classify_rawL6 hsync, setWidth_eq_ofNat])

theorem rawFixedRule {init : BitVec 24} {p : List Byte} {k : Kind} {t bits : Nat}
    (h : classify init k p = classifyRawFixed t bits p) : RawFixedRule init p k t bits := by
  refine wholeFrame_of_need ?_
  rw [h, classifyRawFixed, setWidth_eq_ofNat]
  rfl

/-- Settles O48: the sync test of every kind, then one rule per kind. -/
theorem kindsAcceptExactlyTheirFrames : Obligations.KindsAcceptExactlyTheirFrames :=
  fun _ _ hp => ⟨fun _ => syncRule hp, rfl, rtcmRule, allystarRule, novatelRule, sbfRule, ubxRule, rawL6Rule,
    rawFixedRule rfl, rawFixedRule rfl, rawFixedRule rfl⟩

end Sys2Proof.Proofs.Framing
end

section
/-! PROOFS. The L6 subframe assembler (O55, O56, O57, O58): the fields of a frame as numbers, what a data part does to
the buffer, then each outcome of SFA.PUSH. -/

namespace Sys2Proof.Proofs.Subframe

open Sys2Proof Sys2Proof.Machine Sys2Proof.Safety Sys2Proof.Laws Sys2Proof.Proofs.Encoding Sys2Proof.Proofs.BitWriter
  Sys2Proof.Proofs.FrameFeed

/-! ### The fields of the frame (R220) -/

theorem byteAt_l6Frame (s : State) {i : Nat} (hi : i < 250) :
    byteAt (l6Frame s) i = s.mem.readByte (s.arg0.toNat + i) := readBytes_getD _ _ hi

theorem streamBit_l6Frame (s : State) {k : Nat} (hk : k < 2000) :
    streamBit (l6Frame s) k = s.mem.readBit s.arg0.toNat k := by
  rw [streamBit, byteAt_l6Frame s (by omega), Memory.readBit]

/-- One more whole byte of a stream, behind the bytes before it (R9). -/
theorem readBits_next_byte (m : Memory) (a n : Nat) :
    m.readBits a 0 (8 * n + 8) = 256 * m.readBits a 0 (8 * n) + (m.readByte (a + n)).toNat := by
  have hbyte := bitsVal_readBit m a n (k := 8) le_rfl
  rw [Nat.sub_self, pow_zero, Nat.div_one] at hbyte
  simp only [Memory.readBits, Nat.zero_add]
  rw [bitsVal_add, hbyte]
  omega

/-- The first 32 bits of a stream are four whole bytes. -/
theorem readBits_thirtyTwo (m : Memory) (a : Nat) :
    readBits m a 0 32 = 2 ^ 24 * (m.readByte a).toNat + 2 ^ 16 * (m.readByte (a + 1)).toNat +
      2 ^ 8 * (m.readByte (a + 2)).toNat + (m.readByte (a + 3)).toNat := by
  have hnone : m.readBits a 0 (8 * 0) = 0 := rfl
  rw [readBits_eq, readBits_next_byte m a 3, readBits_next_byte m a 2, readBits_next_byte m a 1,
    readBits_next_byte m a 0, hnone, Nat.add_zero]
  omega

theorem header_preamble (s : State) : (l6Header (l6Frame s)).preamble = framePreamble s := by
  rw [l6Header, be32, be16, be16, byteAt_l6Frame s (by decide), byteAt_l6Frame s (by decide),
    byteAt_l6Frame s (by decide), byteAt_l6Frame s (by decide), framePreamble, readBits_thirtyTwo]
  simp only [Nat.zero_add, Nat.add_zero, Nat.reduceAdd]
  omega

theorem header_prn_toNat (s : State) : (l6Header (l6Frame s)).prn.toNat = framePrn s :=
  congrArg BitVec.toNat (byteAt_l6Frame s (i := 4) (by decide))

theorem header_mtid_toNat (s : State) : (l6Header (l6Frame s)).mtid.toNat = frameMtid s :=
  congrArg BitVec.toNat (byteAt_l6Frame s (i := 5) (by decide))

/-- The vendor is the upper three bits of the MTID. -/
theorem header_vendor_toNat (s : State) : (l6Header (l6Frame s)).vendor.toNat = frameMtid s / 32 := by
  have hmtid : frameMtid s < 256 := (s.mem.readByte _).isLt
  rw [l6Header, BitVec.extractLsb'_toNat, byteAt_l6Frame s (by decide), Nat.shiftRight_eq_div_pow]
  exact Nat.mod_eq_of_lt (Nat.div_lt_of_lt_mul hmtid)

/-- SFI is the lowest bit of the MTID. -/
theorem header_sfi_iff (s : State) : (l6Header (l6Frame s)).sfi = true ↔ frameMtid s % 2 = 1 := by
  rw [l6Header, BitVec.getLsbD, Nat.testBit_zero, decide_eq_true_eq, byteAt_l6Frame s (by decide), frameMtid]

theorem not_header_sfi {s : State} (h : frameMtid s % 2 = 0) : ¬ (l6Header (l6Frame s)).sfi = true := by
  rw [header_sfi_iff]
  omega

theorem header_prn_eq (s : State) : (l6Header (l6Frame s)).prn = BitVec.ofNat 8 (framePrn s) := by
  rw [← header_prn_toNat, BitVec.ofNat_toNat, BitVec.setWidth_eq]

theorem header_vendor_eq (s : State) : (l6Header (l6Frame s)).vendor = BitVec.ofNat 3 (frameMtid s / 32) := by
  rw [← header_vendor_toNat, BitVec.ofNat_toNat, BitVec.setWidth_eq]

/-- The frame is of the satellite and the vendor that the assembler holds (R221). -/
theorem header_matches_iff (s : State) :
    ((l6Header (l6Frame s)).prn = s.sfaPrn ∧ (l6Header (l6Frame s)).vendor = s.sfaVendor) ↔
      framePrn s = s.sfaPrn.toNat ∧ frameMtid s / 32 = s.sfaVendor.toNat := by
  rw [← BitVec.toNat_inj, ← BitVec.toNat_inj, header_prn_toNat, header_vendor_toNat]

theorem sfOpen_iff (s : State) : sfOpen s = true ↔ 1 ≤ s.sfaN ∧ s.sfaN ≤ 4 := by
  rw [sfOpen, Bool.and_eq_true, decide_eq_true_eq, decide_eq_true_eq]

/-- The model's subframe record is R229's. -/
theorem sfRecord_eq (s : State) (code : RecCode) (prn msgid : Byte) (aux ext : Nat) :
    sfRecord s code prn msgid aux ext = sfRec s code prn.toNat msgid.toNat aux ext := by
  rw [sfRec, BitVec.ofNat_toNat, BitVec.ofNat_toNat]
  rfl

/-! ### The subframe buffer (R222, R225) -/

section
variable {m : Memory} {base : Nat}

/-- The five data parts end inside the buffer. -/
theorem dataPart_in_dmem (hin : base + Config.sfBytes ≤ Config.dmemSize) {n : Nat} (hn : n ≤ 4) :
    base + (Config.dataPartBits * n + Config.dataPartBits - 1) / 8 < Config.dmemSize := by
  simp only [Config.sfBytes, Config.dataPartBits, Config.dmemSize] at *
  omega

/-- A data part of the frame stands behind the `n` parts before it, and every other bit is kept. -/
theorem viewBit_putDataPart (h : m.wf = true) (hin : base + Config.sfBytes ≤ Config.dmemSize) {n : Nat} (hn : n ≤ 4)
    (s : State) (k : Nat) :
    viewBit (putDataPart (l6Frame s) base n m) base k =
      if 1695 * n ≤ k ∧ k < 1695 * (n + 1) then viewBit s.mem s.arg0.toNat (49 + (k - 1695 * n))
      else viewBit m base k := by
  rw [putDataPart, viewBit_writeBits h _ (.inr (dataPart_in_dmem hin hn)), Nat.mul_succ]
  refine ite_congr rfl (fun hk => ?_) fun _ => rfl
  rw [streamBit_l6Frame s (show 49 + (k - 1695 * n) < 2000 by omega), viewBit_eq]

theorem readByte_putDataPart (h : m.wf = true) (f : List Byte) {n : Nat} (hn : n ≤ 4) {a : Nat}
    (ha : a < base ∨ base + Config.sfBytes ≤ a) : (putDataPart f base n m).readByte a = m.readByte a := by
  refine readByte_writeBits h _ ?_
  simp only [Config.sfBytes, Config.dataPartBits] at *
  omega

/-- The buffer filled with zeros. -/
def zeroFilled (m : Memory) (base : Nat) : Memory := m.writeBytes base (List.replicate Config.sfBytes 0)

theorem readByte_zeroFilled (h : m.wf = true) (hin : base + Config.sfBytes ≤ Config.dmemSize) (a : Nat) :
    (zeroFilled m base).readByte a = if base ≤ a ∧ a < base + Config.sfBytes then 0 else m.readByte a := by
  rw [zeroFilled, readByte_writeBytes h (by rwa [List.length_replicate]), List.length_replicate]
  refine ite_congr rfl (fun ha => ?_) fun _ => rfl
  rw [List.getD_replicate _ (by omega)]

theorem viewBit_zeroFilled (h : m.wf = true) (hin : base + Config.sfBytes ≤ Config.dmemSize) {k : Nat}
    (hk : k < 8480) : viewBit (zeroFilled m base) base k = 0 := by
  have hbyte : k / 8 < Config.sfBytes := Nat.div_lt_of_lt_mul hk
  rw [viewBit, readByte_zeroFilled h hin, if_pos ⟨by omega, by omega⟩]
  simp

end

/-! ### The outcomes of a frame, each with the condition it answers to (R221, R223 to R227) -/

theorem assemble_of_badPreamble {s : State} (hpre : framePreamble s ≠ 0x1ACFFC1D) :
    assemble (l6Frame s) s = emit (sfRec s .sfBadPre 0 0 (framePreamble s) 0) s := by
  rw [← header_preamble] at hpre ⊢
  rw [assemble, if_pos hpre, sfRecord_eq]
  rfl

theorem assemble_of_first {s : State} (hpre : framePreamble s = 0x1ACFFC1D) (hsfi : frameMtid s % 2 = 1) :
    assemble (l6Frame s) s = startSubframe (l6Frame s) (l6Header (l6Frame s)) s := by
  rw [← header_preamble] at hpre
  rw [assemble, if_neg (not_not.2 hpre), if_pos ((header_sfi_iff s).2 hsfi)]

/-- A frame with SFI 0 is appended, breaks the chain, or is an orphan. -/
theorem assemble_of_later {s : State} (hpre : framePreamble s = 0x1ACFFC1D) (hsfi : frameMtid s % 2 = 0) :
    assemble (l6Frame s) s =
      if 1 ≤ s.sfaN ∧ s.sfaN ≤ 4 then
        if framePrn s = s.sfaPrn.toNat ∧ frameMtid s / 32 = s.sfaVendor.toNat then
          appendDataPart (l6Frame s) (l6Header (l6Frame s)) s
        else abortSubframe (l6Header (l6Frame s)) s
      else emit (sfRec s .sfOrphan (framePrn s) (frameMtid s) 0 s.sfaN) s := by
  rw [← header_preamble] at hpre
  rw [assemble, if_neg (not_not.2 hpre), if_neg (not_header_sfi hsfi), sfRecord_eq, header_prn_toNat,
    header_mtid_toNat]
  simp only [sfOpen_iff, header_matches_iff]

theorem abortSubframe_eq (s : State) : abortSubframe (l6Header (l6Frame s)) s =
    { emit (sfRec s .sfAbort s.sfaPrn.toNat (frameMtid s) (1695 * s.sfaN) (s.sfaN + 256 * framePrn s)) s with
      sfaN := 0 } := by
  rw [abortSubframe, sfRecord_eq, header_mtid_toNat, header_prn_toNat]

/-- The state that an open subframe's flush leaves; without one, the state itself (R225). -/
def flushed (s : State) : State :=
  if 1 ≤ s.sfaN ∧ s.sfaN ≤ 4
  then emit (sfRec s .sfFlush s.sfaPrn.toNat (frameMtid s) (1695 * s.sfaN) s.sfaN) s else s

theorem flushed_mem (s : State) : (flushed s).mem = s.mem := by
  unfold flushed
  split_ifs
  · exact emit_mem _ _
  · rfl

theorem flushed_sfaBase (s : State) : (flushed s).sfaBase = s.sfaBase := by
  unfold flushed
  split_ifs
  · exact emit_sfaBase _ _
  · rfl

theorem startSubframe_eq (s : State) : startSubframe (l6Frame s) (l6Header (l6Frame s)) s =
    { flushed s with
      mem := putDataPart (l6Frame s) s.sfaBase.toNat 0 (zeroFilled s.mem s.sfaBase.toNat)
      sfaN := 1
      sfaPrn := BitVec.ofNat 8 (framePrn s)
      sfaVendor := BitVec.ofNat 3 (frameMtid s / 32) } := by
  have hflush : (if sfOpen s then emit (sfRecord s .sfFlush s.sfaPrn (l6Header (l6Frame s)).mtid
      (Config.dataPartBits * s.sfaN) s.sfaN) s else s) = flushed s := by
    rw [flushed, sfRecord_eq, header_mtid_toNat]
    exact if_congr (sfOpen_iff s) rfl rfl
  simp only [startSubframe, hflush, flushed_mem, flushed_sfaBase, header_prn_eq, header_vendor_eq, zeroFilled]

theorem emit_withDataPart (r : Record) (m : Memory) (n : Nat) (s : State) :
    emit r { s with mem := m, sfaN := n } = { emit r s with mem := m, sfaN := n } := by
  by_cases h : s.queue.length = Config.recqDepth
  · rw [emit_full h, emit_full (s := { s with mem := m, sfaN := n }) h]
  · rw [emit_room h, emit_room (s := { s with mem := m, sfaN := n }) h]

/-- The memory with the frame's data part behind those held. -/
def appendedMem (s : State) : Memory := putDataPart (l6Frame s) s.sfaBase.toNat s.sfaN s.mem

theorem appendDataPart_of_room {s : State} (hn : s.sfaN < 4) :
    appendDataPart (l6Frame s) (l6Header (l6Frame s)) s =
      { s with mem := appendedMem s, sfaN := s.sfaN + 1 } :=
  if_neg (show s.sfaN + 1 ≠ 5 by omega)

/-- The record of the fifth data part reads nothing that the data part changed. -/
theorem appendDataPart_of_last {s : State} (hn : s.sfaN = 4) :
    appendDataPart (l6Frame s) (l6Header (l6Frame s)) s =
      { emit (sfRec s .sfComplete s.sfaPrn.toNat (frameMtid s) 8475 5) s with
        mem := appendedMem s
        sfaN := 5
        sfDone := true } := by
  have hlast : s.sfaN + 1 = 5 := by omega
  rw [← header_mtid_toNat, ← sfRecord_eq]
  calc appendDataPart (l6Frame s) (l6Header (l6Frame s)) s
      = { emit (sfRecord s .sfComplete s.sfaPrn (l6Header (l6Frame s)).mtid 8475 5)
            { s with mem := appendedMem s, sfaN := s.sfaN + 1 } with sfDone := true } := if_pos hlast
    _ = _ := by rw [emit_withDataPart, hlast]

/-! ### SFA.PUSH (R221) and SFA.CLR (R228) -/

theorem exec_sfaPush (s : State) : exec .sfaPush s = finish .sfaPush s (pushFrame s) := rfl

theorem exec_sfaPush_of_outside {s : State} (h : ¬ FrameInRange s) :
    exec .sfaPush s = .next (raiseCmdError .addr (encode .sfaPush) s) := by
  have hout : s.arg0.toNat + 250 > Config.dmemSize ∨ s.sfaBase.toNat + Config.sfBytes > Config.dmemSize := by
    unfold FrameInRange at h
    omega
  rw [exec_sfaPush, pushFrame, if_pos hout, finish_error]

/-- Past the address checks, RES is N after the frame. -/
theorem exec_sfaPush_of_inside {s t : State} {n : Nat} (h : FrameInRange s) (ht : assemble (l6Frame s) s = t)
    (hn : t.sfaN = n) : exec .sfaPush s = .next { t with res := BitVec.ofNat 64 n } := by
  obtain ⟨hframe, hbuffer⟩ := h
  subst ht hn
  rw [exec_sfaPush, pushFrame, if_neg (by omega), finish_ok]
  rfl

/-- Settles O55: the address checks, then the three outcomes that place no data part. -/
theorem sfaPushReportsUnusableFrames : Obligations.SfaPushReportsUnusableFrames := by
  refine ⟨encodedAs_wordN (op := 0x40) (by decide) rfl rfl, fun s => ⟨exec_sfaPush_of_outside,
    fun hin hpre => ?badPreamble, fun hin hpre hsfi h1 h4 hother => ?abort, fun hin hpre hsfi hclosed => ?orphan⟩⟩
  case badPreamble => exact exec_sfaPush_of_inside hin (assemble_of_badPreamble hpre) (emit_sfaN _ _)
  case abort =>
    have hbroken := assemble_of_later hpre hsfi
    rw [if_pos ⟨h1, h4⟩, if_neg (by omega), abortSubframe_eq] at hbroken
    exact exec_sfaPush_of_inside hin hbroken rfl
  case orphan =>
    have horphan := assemble_of_later hpre hsfi
    rw [if_neg (by omega)] at horphan
    exact exec_sfaPush_of_inside hin horphan (emit_sfaN _ _)

/-- Settles O56: the flush reads the old subframe, and the first data part is put over the zeros. -/
theorem sfaPushStartsSubframe : Obligations.SfaPushStartsSubframe := by
  rintro s t hwf ⟨hframe, hbuffer⟩ hpre hsfi rfl
  have hzero : (zeroFilled s.mem s.sfaBase.toNat).wf = true := writeBytes_wf hwf _ _
  refine ⟨putDataPart (l6Frame s) s.sfaBase.toNat 0 (zeroFilled s.mem s.sfaBase.toNat),
    exec_sfaPush_of_inside ⟨hframe, hbuffer⟩ ((assemble_of_first hpre hsfi).trans (startSubframe_eq s)) rfl,
    fun k hk => ?bits, fun a ha => ?others⟩
  case bits =>
    rw [viewBit_putDataPart hzero hbuffer (Nat.zero_le 4), viewBit_zeroFilled hwf hbuffer hk]
    exact if_congr (by omega) rfl rfl
  case others =>
    rw [readByte_putDataPart hzero _ (Nat.zero_le 4) ha, readByte_zeroFilled hwf hbuffer,
      if_neg fun ⟨hle, hlt⟩ => ha.elim (not_lt.2 hle) (not_le.2 hlt)]

/-- Settles O57: the data part behind those held, with the record when it is the fifth. -/
theorem sfaPushAppendsDataPart : Obligations.SfaPushAppendsDataPart := by
  rintro s hwf ⟨hframe, hbuffer⟩ hpre hsfi h1 h4 hprn hvendor
  have hin : FrameInRange s := ⟨hframe, hbuffer⟩
  have happend := assemble_of_later hpre hsfi
  rw [if_pos ⟨h1, h4⟩, if_pos ⟨hprn, hvendor⟩] at happend
  exact ⟨appendedMem s, fun hn => exec_sfaPush_of_inside hin (happend.trans (appendDataPart_of_room hn)) rfl,
    fun hn => exec_sfaPush_of_inside hin (happend.trans (appendDataPart_of_last hn)) rfl,
    fun k => viewBit_putDataPart hwf hbuffer h4 s k, fun a ha => readByte_putDataPart hwf _ h4 ha⟩

/-- Settles O58: SFA.CLR has no check. -/
theorem sfaClrDiscardsSubframe : Obligations.SfaClrDiscardsSubframe :=
  ⟨encodedAs_wordN (op := 0x41) (by decide) rfl rfl, fun _ => rfl⟩

end Sys2Proof.Proofs.Subframe
end

section
/-! PROOFS. The system commands (O9, O19): the state that the reset action leaves, register by register, and the two
commands. -/

namespace Sys2Proof.Proofs.SystemCommands

open Sys2Proof Sys2Proof.Machine Sys2Proof.Safety Sys2Proof.Laws Sys2Proof.Proofs.Encoding Sys2Proof.Proofs.Csr

/-! ### The CSR space after the reset action (R20, R280) -/

theorem liveBits_replicate_none (n m : Nat) : liveBits m (List.replicate n none) = 0 := by
  induction n generalizing m with
  | zero => rfl
  | succ n ih => simp [List.replicate_succ, liveBits, ih]

/-- HAS_LIVE (R48), which `csrNumber` leaves out: every slot is EMPTY. -/
theorem hasLive_softReset (s : State) : csrValue 0x35 (softReset s) = 0 :=
  (congrArg (liveBits 1) (Vector.toList_replicate ..)).trans (liveBits_replicate_none 31 1)

/-- Every register but the ID, CRC and the memory port's MEM_DATA reads 0. -/
theorem csrNumber_softReset (s : State) {i : Nat} (hid : i ≠ 0x00) (hcrc : i ≠ 0x18) (hport : i ≠ 0x3D) :
    csrNumber (softReset s) i = 0 := by
  unfold csrNumber
  split
  case h_1 => exact absurd rfl hid -- ID
  case h_18 => exact absurd rfl hcrc -- CRC
  case h_11 => exact (congrArg (·.toNat / 2 ^ 32) (softReset_res s)).trans (Nat.zero_div _) -- RES_HI
  case h_42 => exact absurd rfl hport -- MEM_DATA
  all_goals rfl

/-- After the reset action every count is 0, so each register reads as its number. -/
theorem csrValue_softReset_toNat (s : State) {i : BitVec 6} (hlive : i ≠ 0x35) :
    (csrValue i (softReset s)).toNat = csrNumber (softReset s) i.toNat := by
  have hread := csrValue_toNat (s := softReset s) i.isLt (fun h => hlive (BitVec.eq_of_toNat_eq h))
    (by simp) (by simp) (by simp) (by simp)
  rwa [BitVec.ofNat_toNat, BitVec.setWidth_eq] at hread

theorem csrValue_softReset (s : State) {i : BitVec 6} (hport : i ≠ 0x3D) :
    csrValue i (softReset s) = resetColumn s.params i := by
  by_cases hid : i = 0x00
  · subst hid; rfl
  by_cases hcrc : i = 0x18
  · subst hcrc; rfl
  rw [resetColumn, if_neg hid, if_neg hcrc]
  by_cases hlive : i = 0x35
  · rw [hlive, hasLive_softReset]
  have hne : ∀ {j : BitVec 6}, i ≠ j → i.toNat ≠ j.toNat := fun h heq => h (BitVec.eq_of_toNat_eq heq)
  refine BitVec.eq_of_toNat_eq ((csrValue_softReset_toNat s hlive).trans ?_)
  exact csrNumber_softReset s (hne hid) (hne hcrc) (hne hport)

/-! ### The reset action -/

theorem slotOf_softReset (s : State) (mid : Nat) : slotOf (softReset s) mid = none := by
  rw [slotOf, softReset_hasSlots, Vector.getElem?_replicate]
  split_ifs <;> rfl

/-- With no source enabled the interrupt output is low (R260). -/
theorem irq_of_irqEn_zero {s : State} (h : s.irqEn = 0) : irq s = false := by
  rw [irq, h, BitVec.ofNat_eq_ofNat, BitVec.and_zero, decide_eq_false_iff_not, not_not]

/-- The action of R280, whatever DMEM holds. The `reset` input and power-on differ from it in DMEM only. -/
theorem isReset_softReset (s : State) : IsReset (softReset s) where
  csrs _ hport := csrValue_softReset s hport
  pending := softReset_pending s
  table := ⟨softReset_bssTable s, softReset_bssTow s⟩
  queue := softReset_queue s
  slots mid _ _ := slotOf_softReset s mid
  assembler := ⟨softReset_sfaN s, softReset_sfaPrn s, softReset_sfaVendor s⟩
  interrupt := irq_of_irqEn_zero (softReset_irqEn s)

/-! ### SRST and NOP -/

theorem exec_srst (s : State) : exec .srst s = .next (softReset s) := rfl

/-- Settles O9: SRST is the reset action with DMEM kept. -/
theorem srstResetsAllButDmem : Obligations.SrstResetsAllButDmem :=
  ⟨encodedAs_wordN (op := 0x01) (by decide) rfl rfl, fun s => ⟨softReset s, exec_srst s, isReset_softReset s,
    softReset_mem s, softReset_params s, softReset_bus s, softReset_busOut s⟩⟩

/-- Settles O19: NOP has no check and no effect. -/
theorem nopChangesNothing : Obligations.NopChangesNothing :=
  ⟨encodedAs_wordN (op := 0x00) (by decide) rfl rfl, fun _ => rfl⟩

end Sys2Proof.Proofs.SystemCommands
end

section
/-! PROOFS. Errors and the interrupt (O7, O10, O11, O13): every command ends in a next state, a command error latches
once and changes nothing else, and the sources of the interrupt output. -/

namespace Sys2Proof.Proofs.Errors

open Sys2Proof Sys2Proof.Machine Sys2Proof.Safety Sys2Proof.Laws Sys2Proof.Proofs.Csr Sys2Proof.Proofs.HostAccess
  Sys2Proof.Proofs.BitCursor

/-! ### Every command ends (R250, R258) -/

/-- What the pseudocode of a command answers: the state it reaches, or the cause of its command error. -/
def result (i : Instr) (s : State) : Except Cause State :=
  match i with
  | .nop => .ok s
  | .srst => .ok (softReset s)
  | .bcRdu n => readUnsigned n s
  | .bcRds n => readSigned n s
  | .bcPeek n => peekUnsigned n s
  | .bcAdv m => skipBits m s
  | .bcRem => .ok (setRes (s.bcLen.toNat - s.bcPos.toNat) s)
  | .bwWr n => writeField n s
  | .bwAlign => sinkWrite (alignGap s) (fun _ => false) s
  | .crcInit => .ok { s with crc := s.params.crc24qInit }
  | .crcByte b => .ok { s with crc := crcStep s.crc b }
  | .crcMem => foldDmem s
  | .crcChk => checkTrailer s
  | .rtcmEnc => encodeRtcm s
  | .gfMul => .ok (setRes (gmul (s.arg0.extractLsb' 0 8) (s.arg1.extractLsb' 0 8)).toNat s)
  | .gfInv => invert s
  | .hasPage => pageCommand (hasOperand s.arg1) s
  | .hasClr => .ok (setRes 0 { s with hasSlots := Vector.replicate 31 none })
  | .dmxByte b => .ok (pushAll [b] s)
  | .dmxFeed => feed s
  | .dmxEos => .ok (endOfStream s)
  | .recPop => popRecord s
  | .sfaPush => pushFrame s
  | .sfaClr => .ok (setRes 0 { s with sfaN := 0, sfaPrn := 0, sfaVendor := 0 })

/-- Every command is its pseudocode and then the one end that commands share. -/
theorem exec_eq_finish (i : Instr) (s : State) : exec i s = finish i s (result i s) := by
  cases i <;> rfl

theorem finish_next (i : Instr) (s : State) (r : Except Cause State) : ∃ t, finish i s r = .next t := by
  cases r with
  | ok t => exact ⟨t, finish_ok i s t⟩
  | error c => exact ⟨_, finish_error i s c⟩

theorem exec_next (i : Instr) (s : State) : ∃ t, exec i s = .next t :=
  exec_eq_finish i s ▸ finish_next i s (result i s)

theorem runCommand_next (w : Word) (s : State) : ∃ t, runCommand w s = .next t := by
  unfold runCommand
  split
  · exact exec_next _ _
  · exact ⟨_, rfl⟩

theorem performAccess_next (a : BusAccess) (s : State) : ∃ t, performAccess a s = .next t := by
  cases a with
  | csrRead i => exact ⟨_, rfl⟩
  | csrWrite i v =>
    by_cases hi : i = cmdIndex
    · subst hi
      exact runCommand_next v s
    · exact ⟨_, performAccess_csrWrite_of_ne hi v s⟩
  | reset => exact ⟨_, rfl⟩

theorem step_next (s : State) : ∃ t, step s = .next t := by
  cases hbus : s.bus with
  | nil => exact ⟨s, step_of_bus_nil hbus⟩
  | cons a rest => exact step_of_bus_cons hbus ▸ performAccess_next a _

/-- Settles O7: a command error is a next state like any other end of a command. -/
theorem noErrorStopsTheBlock : Obligations.NoErrorStopsTheBlock := ⟨step_next, exec_next⟩

/-! ### STATUS bit by bit and the interrupt (R23, R260) -/

/-- The sources of the interrupt output, in the order of their STATUS bits. -/
def statusSource (s : State) : Fin 7 → Bool :=
  ![s.err, recqNe s, s.recqOvf, s.syncLost, s.sfDone, s.hasDone, s.hasFail]

/-- A bit appended on the right is bit 0 of the word; the others move up by one. -/
theorem getLsbD_append_ofBool {w : Nat} (x : BitVec w) (b : Bool) (k : Nat) :
    (x ++ BitVec.ofBool b).getLsbD k = if k = 0 then b else x.getLsbD (k - 1) := BitVec.getLsbD_concat x b k

theorem statusWord_getLsbD (s : State) (i : Fin 7) : (statusWord s).getLsbD i = statusSource s i := by
  simp only [statusWord, getLsbD_append_ofBool]
  fin_cases i <;> rfl

theorem recqNe_iff (s : State) : recqNe s = true ↔ s.queue ≠ [] := by
  simp [recqNe]

theorem ne_zero_iff_exists_getLsbD {w : Nat} (x : BitVec w) : x ≠ 0 ↔ ∃ i : Fin w, x.getLsbD i = true := by
  rw [Ne, BitVec.eq_of_getLsbD_eq_iff, Fin.exists_iff]
  simp only [BitVec.ofNat_eq_ofNat, BitVec.getLsbD_zero, not_forall, Bool.not_eq_false, exists_prop]

theorem irq_iff_exists_source (s : State) :
    irq s = true ↔ ∃ i : Fin 7, statusSource s i = true ∧ s.irqEn.getLsbD i = true := by
  rw [irq, decide_eq_true_eq, ne_zero_iff_exists_getLsbD]
  refine exists_congr fun i => ?_
  rw [BitVec.getLsbD_and, BitVec.getLsbD_extractLsb', Nat.zero_add, statusWord_getLsbD]
  simp [i.isLt]

/-- Settles O13: some source is enabled, source by source; RECQ_NE is the level of the queue. -/
theorem interruptIsEnabledStatus : Obligations.InterruptIsEnabledStatus := by
  intro s
  rw [irq_iff_exists_source, ← recqNe_iff]
  simp [Fin.exists_fin_succ, statusSource]

/-! ### The latch (R251, R252) -/

theorem raiseCmdError_of_clear {s : State} (h : s.err = false) (c : Cause) (w : Word) :
    raiseCmdError c w s = { s with err := true, errCause := c, errCmd := w } := by
  simp [raiseCmdError, h]

theorem raiseCmdError_of_latched {s : State} (h : s.err = true) (c : Cause) (w : Word) : raiseCmdError c w s = s := by
  simp only [raiseCmdError, h, if_true]
  rw [← h]

theorem csrValue_status_bit_zero (s : State) : (csrValue 0x02 s).getLsbD 0 = s.err := statusWord_getLsbD s 0

theorem csrValue_errCause_toNat (s : State) : (csrValue 0x03 s).toNat = causeNumber s.errCause :=
  (BitVec.toNat_setWidth_of_le (by decide)).trans (causeBits_toNat s.errCause)

/-- Settles O10: the two cases of ERR, and what the host reads after the first error. -/
theorem firstErrorIsLatched : Obligations.FirstErrorIsLatched := by
  refine fun c w s => ⟨fun h => raiseCmdError_of_clear h c w, fun h => raiseCmdError_of_latched h c w,
    (csrValue_status_bit_zero _).trans (raiseCmdError_err c w s), fun h => ?_⟩
  rw [csrValue_errCause_toNat, raiseCmdError_of_clear h]
  exact ⟨rfl, rfl⟩

/-! ### What the operations of the demultiplexer leave of ERR -/

theorem bssClose_err (s : State) : (bssClose s).err = s.err := by
  rcases bssClose_cases s with ⟨-, hs⟩ | ⟨e, -, -, hs⟩ <;> rw [hs]
  exact emit_err e s

theorem bssInsert_err (r : Record) (s : State) : (bssInsert r s).err = s.err := by
  unfold bssInsert
  split_ifs <;> rfl

theorem closeOtherTick_err (r : Record) (s : State) : (Invariant.closeOtherTick r s).err = s.err := by
  unfold Invariant.closeOtherTick
  split_ifs
  · exact bssClose_err s
  · rfl

theorem bssOffer_err (r : Record) (s : State) : (bssOffer r s).err = s.err := by
  rw [Invariant.bssOffer_eq, bssInsert_err]
  split_ifs <;> exact closeOtherTick_err r s

theorem deliver_err (r : Record) (s : State) : (deliver r s).err = s.err := by
  simp only [deliver]
  split_ifs
  · exact emit_err r _
  · rfl
  · exact bssOffer_err r _
  · exact emit_err r _

theorem scan_err (fuel : Nat) (s : State) : (scan fuel s).err = s.err := by
  refine scan_keeps (P := fun t => t.err = s.err) ?skip ?reject ?accept fuel rfl
  case skip => exact fun _ _ _ _ h => h
  case reject => exact fun t _ _ code bit _ h => (emit_err (errorRecord t code bit) t).trans h
  case accept => exact fun t _ _ _ f _ _ h => (deliver_err (frameRecord t f) _).trans h

theorem foldl_push_err (bs : List Byte) (s : State) : (bs.foldl push s).err = s.err := by
  induction bs generalizing s with
  | nil => rfl
  | cons b bs ih => exact (ih (push s b)).trans (scan_err _ _)

theorem pushAll_err (bs : List Byte) (s : State) : (pushAll bs s).err = s.err := foldl_push_err bs _

theorem endOfStream_err (s : State) : (endOfStream s).err = s.err := bssClose_err _

/-! ### What HAS pages and subframes leave of ERR -/

theorem openGroup_err (op : HasOperand) (s : State) : (openGroup op s).1.err = s.err := by
  rcases openGroup_cases op s with ⟨-, ho⟩ | ⟨g, -, -, ho⟩ | ⟨g, -, -, ho⟩ <;> rw [ho]
  exact emit_err _ s

theorem completeGroup_err (op : HasOperand) (g : HasGroup) (s : State) : (completeGroup op g s).err = s.err := by
  unfold completeGroup
  split
  · exact emit_err _ _
  · exact emit_err _ s

theorem offerPage_err (op : HasOperand) (y : List Byte) (s : State) : (offerPage op y s).err = s.err := by
  simp only [offerPage]
  split_ifs
  · exact (completeGroup_err op _ _).trans (openGroup_err op s)
  · exact openGroup_err op s

theorem rejectPage_err (op : HasOperand) (code : RecCode) (msgid : Nat) (s : State) :
    (rejectPage op code msgid s).err = s.err := emit_err _ s

theorem startSubframe_err (f : List Byte) (l6 : L6Header) (s : State) : (startSubframe f l6 s).err = s.err := by
  unfold startSubframe
  split_ifs
  · exact emit_err _ s
  · rfl

theorem appendDataPart_err (f : List Byte) (l6 : L6Header) (s : State) : (appendDataPart f l6 s).err = s.err := by
  simp only [appendDataPart]
  split_ifs
  · exact emit_err _ _
  · rfl

theorem assemble_err (f : List Byte) (s : State) : (assemble f s).err = s.err := by
  simp only [assemble]
  split_ifs
  · exact emit_err _ s
  · exact startSubframe_err f _ s
  · exact appendDataPart_err f _ s
  · exact emit_err _ s
  · exact emit_err _ s

/-! ### The results of the commands -/

/-- Only a command error sets ERR (R250, R251): the state reached has it clear, and an error has a cause. -/
def LatchesOnlyErrors : Except Cause State → Prop
  | .ok t => t.err = false
  | .error c => c ≠ .none

section
variable {s : State}

/-- The three reading commands, by the use they make of the value. -/
theorem readThen_latches {refused : Prop} [Decidable refused] {n : Nat} {k : Nat → State}
    (hk : ∀ v, (k v).err = false) : LatchesOnlyErrors (readThen refused n k s) := by
  unfold readThen
  split
  · exact Cause.noConfusion
  rcases viewRead_cases n s with ⟨-, hv⟩ | ⟨-, -, hv⟩ | ⟨-, -, -, hv⟩ | ⟨-, -, -, hv⟩ <;> rw [hv]
  · exact hk _
  · exact Cause.noConfusion
  · exact Cause.noConfusion
  · exact hk _

theorem skipBits_latches (h : s.err = false) (m : Nat) : LatchesOnlyErrors (skipBits m s) := by
  unfold skipBits
  split
  · exact Cause.noConfusion
  · exact h

theorem sinkWrite_latches (h : s.err = false) (n : Nat) (bit : Nat → Bool) :
    LatchesOnlyErrors (sinkWrite n bit s) := by
  rcases sinkWrite_cases n bit s with ⟨-, hw⟩ | ⟨-, -, -, hw⟩ | ⟨-, -, hw⟩ <;> rw [hw]
  · exact Cause.noConfusion
  · exact Cause.noConfusion
  · exact h

theorem writeField_latches (h : s.err = false) (n : Nat) : LatchesOnlyErrors (writeField n s) := by
  unfold writeField
  split
  · exact Cause.noConfusion
  · exact sinkWrite_latches h n _

theorem foldDmem_latches (h : s.err = false) : LatchesOnlyErrors (foldDmem s) := by
  unfold foldDmem
  split
  · exact h
  · exact Cause.noConfusion

theorem checkTrailer_latches (h : s.err = false) : LatchesOnlyErrors (checkTrailer s) := by
  unfold checkTrailer
  split
  · exact h
  · exact Cause.noConfusion

theorem encodeRtcm_latches (h : s.err = false) : LatchesOnlyErrors (encodeRtcm s) := by
  simp only [encodeRtcm]
  split_ifs
  · exact Cause.noConfusion
  · exact Cause.noConfusion
  · exact h

theorem invert_latches (h : s.err = false) : LatchesOnlyErrors (invert s) := by
  unfold invert
  split
  · exact Cause.noConfusion
  · exact h

theorem feed_latches (h : s.err = false) : LatchesOnlyErrors (feed s) := by
  unfold feed
  split
  · exact (pushAll_err _ s).trans h
  · exact Cause.noConfusion

theorem popRecord_latches (h : s.err = false) : LatchesOnlyErrors (popRecord s) := by
  unfold popRecord
  split
  · exact Cause.noConfusion
  split
  · exact h
  · exact Cause.noConfusion

theorem pageCommand_latches (h : s.err = false) (op : HasOperand) : LatchesOnlyErrors (pageCommand op s) := by
  unfold pageCommand
  split_ifs
  · exact Cause.noConfusion
  · exact Cause.noConfusion
  · exact (rejectPage_err op .badPid op.mid s).trans h
  · exact (rejectPage_err op .badMid 0 s).trans h
  · exact (rejectPage_err op .badMs op.mid s).trans h
  · exact (offerPage_err op _ s).trans h

theorem pushFrame_latches (h : s.err = false) : LatchesOnlyErrors (pushFrame s) := by
  simp only [pushFrame]
  split_ifs
  · exact Cause.noConfusion
  · exact (assemble_err _ s).trans h

theorem result_latches (h : s.err = false) (i : Instr) : LatchesOnlyErrors (result i s) := by
  cases i with
  | nop => exact h
  | srst => exact softReset_err s
  | bcRdu n => exact readThen_latches (refused := n > 64) fun _ => h
  | bcRds n => exact readThen_latches (refused := n = 0 ∨ n > 64) fun _ => h
  | bcPeek n => exact readThen_latches (refused := n > 64) fun _ => h
  | bcAdv m => exact skipBits_latches h m
  | bcRem => exact h
  | bwWr n => exact writeField_latches h n
  | bwAlign => exact sinkWrite_latches h _ _
  | crcInit => exact h
  | crcByte b => exact h
  | crcMem => exact foldDmem_latches h
  | crcChk => exact checkTrailer_latches h
  | rtcmEnc => exact encodeRtcm_latches h
  | gfMul => exact h
  | gfInv => exact invert_latches h
  | hasPage => exact pageCommand_latches h _
  | hasClr => exact h
  | dmxByte b => exact (pushAll_err [b] s).trans h
  | dmxFeed => exact feed_latches h
  | dmxEos => exact (endOfStream_err s).trans h
  | recPop => exact popRecord_latches h
  | sfaPush => exact pushFrame_latches h
  | sfaClr => exact h

end

/-- Settles O11: only a command error sets ERR, and all it changes is the latch. -/
theorem failedCommandLeavesData : Obligations.FailedCommandLeavesData := by
  intro i s t ht hclear hset
  rw [exec_eq_finish] at ht
  have hlatch := result_latches hclear i
  rcases finish_cases ht with hr | ⟨c, hr, rfl⟩ <;> rw [hr] at hlatch
  · exact absurd (hlatch.symm.trans hset) Bool.false_ne_true
  · rw [raiseCmdError_of_clear hclear]
    exact ⟨rfl, hlatch⟩

end Sys2Proof.Proofs.Errors
end

section
/-! PROOFS. Power-on reset (O8, O59): it is the reset action of SRST on a DMEM that reads DMEM_INIT again, and
`State.reset` is a state that it leaves as it is. -/

namespace Sys2Proof.Proofs.PowerOn

open Sys2Proof Sys2Proof.Machine Sys2Proof.Safety Sys2Proof.Laws Sys2Proof.Proofs.Invariant
  Sys2Proof.Proofs.HostAccess Sys2Proof.Proofs.SystemCommands

/-- SRST and the `reset` input differ in DMEM only (R281). -/
theorem powerOnReset_eq_softReset (s : State) :
    powerOnReset s = softReset { s with mem := ⟨s.mem.init, []⟩ } := rfl

theorem powerOnReset_reset : powerOnReset State.reset = State.reset := rfl

theorem isReset_powerOnReset (s : State) : IsReset (powerOnReset s) :=
  powerOnReset_eq_softReset s ▸ isReset_softReset _

/-- With no cell listed, DMEM reads DMEM_INIT, and 0 past its end. -/
theorem readByte_no_cells (init : List Byte) (a : Nat) : Memory.readByte ⟨init, []⟩ a = init.getD a 0 := rfl

theorem readByte_powerOnReset (s : State) (a : Nat) : (powerOnReset s).mem.readByte a = s.mem.init.getD a 0 := by
  rw [powerOnReset_mem, readByte_no_cells]

theorem step_of_reset {s : State} {rest : List BusAccess} (hbus : s.bus = .reset :: rest) :
    step s = .next (powerOnReset { s with bus := rest }) :=
  step_of_bus_cons hbus

/-- Settles O8: power-on and the `reset` input are one reset action. -/
theorem powerOnResetsEverything : Obligations.PowerOnResetsEverything := by
  refine ⟨powerOnReset_reset ▸ isReset_powerOnReset State.reset, readByte_powerOnReset State.reset, ?_⟩
  intro s rest hbus
  exact ⟨powerOnReset { s with bus := rest }, step_of_reset hbus, isReset_powerOnReset _, readByte_powerOnReset _,
    powerOnReset_params _, rfl, powerOnReset_bus _, powerOnReset_busOut _⟩

/-- Settles O59: the reset action leaves a state that meets the invariant, and it leaves `State.reset` as it is. -/
theorem resetMeetsInvariant : Obligations.ResetMeetsInvariant := by
  unfold Obligations.ResetMeetsInvariant
  rw [← powerOnReset_reset]
  exact inv_powerOnReset State.reset

end Sys2Proof.Proofs.PowerOn
end
